-- ==== Sys2Proof/Word.lean ====
section
/-! DEFINITION. The word types of ADCSEQ-SG (spec/00_scope.md R8, R9; spec/10_state.md R22, R27). -/

namespace Sys2Proof

/-- One byte of system memory (R47). -/
abbrev Byte := BitVec 8

/-- A register value, an address or a 32-bit memory word (R9). -/
abbrev Word := BitVec 32

/-- A raw conversion code or a result-FIFO entry, 0..4095 (R8 ADC_BITS, R27). -/
abbrev Sample := BitVec 12

/-- A scatter-gather channel number, 0..31 (R8 NCH). -/
abbrev Chan := Fin 32

/-- A sequence step number, 0..3 (R8 NSTEPS). -/
abbrev StepIx := Fin 4

/-- A transaction word TW: W in bit 12, OFF in bits 11:0 (R68). -/
abbrev TxnWord := BitVec 13

end Sys2Proof
end

