-- ==== Sys2Proof/Syntax.lean ====
section
/-! DEFINITION. The whole syntax: the registers of the window, the 53 rows of the opcode table, the control
word's fields, and the script operations a model is driven by (spec/30_encoding.md, spec/00_scope.md R2). -/
namespace Sys2Proof

/-- The 22 registers of the window (spec/10_state.md R17). -/
inductive Reg where
  /-- TMR_CTL, offset 0x000. -/
  | tmrCtl
  /-- TMR_LOAD, offset 0x004. -/
  | tmrLoad
  /-- TMR_VALUE, offset 0x008. -/
  | tmrValue
  /-- ADC_CTL, offset 0x100. -/
  | adcCtl
  /-- ADC_STEPCFG, offset 0x104. -/
  | adcStepcfg
  /-- ADC_PSSI, offset 0x108. -/
  | adcPssi
  /-- ADC_RIS, offset 0x10C. -/
  | adcRis
  /-- ADC_IM, offset 0x110. -/
  | adcIm
  /-- ADC_ISC, offset 0x114. -/
  | adcIsc
  /-- ADC_FIFO, offset 0x118. -/
  | adcFifo
  /-- ADC_FSTAT, offset 0x11C. -/
  | adcFstat
  /-- SG_CFG, offset 0x200. -/
  | sgCfg
  /-- SG_CTLBASE, offset 0x204. -/
  | sgCtlbase
  /-- SG_ENASET, offset 0x208. -/
  | sgEnaset
  /-- SG_ENACLR, offset 0x20C. -/
  | sgEnaclr
  /-- SG_ALTSET, offset 0x210. -/
  | sgAltset
  /-- SG_ALTCLR, offset 0x214. -/
  | sgAltclr
  /-- SG_SWREQ, offset 0x218. -/
  | sgSwreq
  /-- SG_ERRCLR, offset 0x21C. -/
  | sgErrclr
  /-- SG_DONE, offset 0x220. -/
  | sgDone
  /-- SG_DONEIM, offset 0x224. -/
  | sgDoneim
  /-- SG_ACTIVE, offset 0x228. -/
  | sgActive
deriving DecidableEq, Repr, Inhabited

/-- The transfer modes, CTL bits 2:0 (R76). -/
inductive XferMode where
  | stop
  | basic
  | auto
  | rsvd3
  | memSg
  | altSg
  | rsvd6
  | rsvd7
deriving DecidableEq, Repr, Inhabited

/-- The fields of a control word other than XFERMODE (R74). -/
structure CtlFields where
  /-- bits 31:30, destination increment code -/
  dstInc : BitVec 2
  /-- bits 29:28, destination element size code -/
  dstSize : BitVec 2
  /-- bits 27:26, source increment code -/
  srcInc : BitVec 2
  /-- bits 25:24, source element size code -/
  srcSize : BitVec 2
  /-- bits 23:18, reserved: must be 0 (checked when the word is used, R77) -/
  rsvHi : BitVec 6
  /-- bits 17:14, burst exponent -/
  arbSize : BitVec 4
  /-- bits 13:4, remaining elements minus one -/
  xferSize : BitVec 10
  /-- bit 3, reserved: must be 0 (checked when the word is used, R77) -/
  rsvLo : BitVec 1
deriving DecidableEq, Repr, Inhabited

/-- The instructions (R2): one constructor per row of spec/opcode_table.json. A REGTXN write carries its DATA
(R68), an SGCTL word its fields (R74). BUSERR carries the access it answers: its width in bytes, its
transaction word and its data. -/
inductive Instr where
  /-- RD.TMR_CTL (R87) -/
  | rdTmrCtl
  /-- WR.TMR_CTL (R88) -/
  | wrTmrCtl (data : Word)
  /-- RD.TMR_LOAD (R89) -/
  | rdTmrLoad
  /-- WR.TMR_LOAD (R90) -/
  | wrTmrLoad (data : Word)
  /-- RD.TMR_VALUE (R92) -/
  | rdTmrValue
  /-- WR.TMR_VALUE (R93) -/
  | wrTmrValue (data : Word)
  /-- RD.ADC_CTL (R102) -/
  | rdAdcCtl
  /-- WR.ADC_CTL (R103) -/
  | wrAdcCtl (data : Word)
  /-- RD.ADC_STEPCFG (R104) -/
  | rdAdcStepcfg
  /-- WR.ADC_STEPCFG (R105) -/
  | wrAdcStepcfg (data : Word)
  /-- RD.ADC_PSSI (R106) -/
  | rdAdcPssi
  /-- WR.ADC_PSSI (R107) -/
  | wrAdcPssi (data : Word)
  /-- RD.ADC_RIS (R108) -/
  | rdAdcRis
  /-- WR.ADC_RIS (R109) -/
  | wrAdcRis (data : Word)
  /-- RD.ADC_IM (R110) -/
  | rdAdcIm
  /-- WR.ADC_IM (R111) -/
  | wrAdcIm (data : Word)
  /-- RD.ADC_ISC (R112) -/
  | rdAdcIsc
  /-- WR.ADC_ISC (R113) -/
  | wrAdcIsc (data : Word)
  /-- RD.ADC_FIFO (R114) -/
  | rdAdcFifo
  /-- WR.ADC_FIFO (R115) -/
  | wrAdcFifo (data : Word)
  /-- RD.ADC_FSTAT (R116) -/
  | rdAdcFstat
  /-- WR.ADC_FSTAT (R117) -/
  | wrAdcFstat (data : Word)
  /-- RD.SG_CFG (R128) -/
  | rdSgCfg
  /-- WR.SG_CFG (R129) -/
  | wrSgCfg (data : Word)
  /-- RD.SG_CTLBASE (R130) -/
  | rdSgCtlbase
  /-- WR.SG_CTLBASE (R131) -/
  | wrSgCtlbase (data : Word)
  /-- RD.SG_ENASET (R132) -/
  | rdSgEnaset
  /-- WR.SG_ENASET (R133) -/
  | wrSgEnaset (data : Word)
  /-- RD.SG_ENACLR (R134) -/
  | rdSgEnaclr
  /-- WR.SG_ENACLR (R135) -/
  | wrSgEnaclr (data : Word)
  /-- RD.SG_ALTSET (R136) -/
  | rdSgAltset
  /-- WR.SG_ALTSET (R137) -/
  | wrSgAltset (data : Word)
  /-- RD.SG_ALTCLR (R138) -/
  | rdSgAltclr
  /-- WR.SG_ALTCLR (R139) -/
  | wrSgAltclr (data : Word)
  /-- RD.SG_SWREQ (R140) -/
  | rdSgSwreq
  /-- WR.SG_SWREQ (R141) -/
  | wrSgSwreq (data : Word)
  /-- RD.SG_ERRCLR (R142) -/
  | rdSgErrclr
  /-- WR.SG_ERRCLR (R143) -/
  | wrSgErrclr (data : Word)
  /-- RD.SG_DONE (R144) -/
  | rdSgDone
  /-- WR.SG_DONE (R145) -/
  | wrSgDone (data : Word)
  /-- RD.SG_DONEIM (R146) -/
  | rdSgDoneim
  /-- WR.SG_DONEIM (R147) -/
  | wrSgDoneim (data : Word)
  /-- RD.SG_ACTIVE (R148) -/
  | rdSgActive
  /-- WR.SG_ACTIVE (R149) -/
  | wrSgActive (data : Word)
  /-- BUSERR (R57, R198) -/
  | busErr (width : Nat) (tw : TxnWord) (data : Word)
  /-- SGCTL.STOP (R162) -/
  | sgctlStop (f : CtlFields)
  /-- SGCTL.BASIC (R163) -/
  | sgctlBasic (f : CtlFields)
  /-- SGCTL.AUTO (R164) -/
  | sgctlAuto (f : CtlFields)
  /-- SGCTL.RSVD3 (R165) -/
  | sgctlRsvd3 (f : CtlFields)
  /-- SGCTL.MEM_SG (R166) -/
  | sgctlMemSg (f : CtlFields)
  /-- SGCTL.ALT_SG (R167) -/
  | sgctlAltSg (f : CtlFields)
  /-- SGCTL.RSVD6 (R168) -/
  | sgctlRsvd6 (f : CtlFields)
  /-- SGCTL.RSVD7 (R169) -/
  | sgctlRsvd7 (f : CtlFields)
deriving DecidableEq, Repr, Inhabited

/-- Where an instruction's bits come from: a bus access of `width` bytes to the register window, or word 2 of a
control structure (R67). -/
inductive Source where
  | regTxn (width : Nat)
  | sgCtl
deriving DecidableEq, Repr

/-- Why bytes are no instruction. -/
inductive DecodeError where
  /-- fewer bytes than the format needs -/
  | truncated
  /-- bits 15:13 above the 13-bit transaction word are not 0 -/
  | notATransaction
deriving DecidableEq, Repr

/-- The direction of a bus access (the `kind` of BUS_RESP, R58). -/
inductive AccessKind where
  | read
  | write
deriving DecidableEq, Repr, Inhabited

/-- The sizes of an SGE bus access (R47). -/
inductive Size where
  | byte
  | half
  | word
deriving DecidableEq, Repr, Inhabited

/-- One line of a script (R83): which agent acts next, and with what operands. Register transactions are of any
width, so that the error response of R50 can be asked for. -/
inductive Op where
  /-- a register transaction of the host: `RD <REG>` or `WR <REG>, imm32` -/
  | reg (width : Nat) (tw : TxnWord) (data : Word)
  /-- `MRD addr`: the host reads one 32-bit word of system memory -/
  | memRead (addr : Word)
  /-- `MWR addr, imm32`: the host writes one 32-bit word of system memory -/
  | memWrite (addr value : Word)
  /-- `MWR addr, v` with v the value the host read last (`RD ADC_FIFO -> buf[k]`, R182) -/
  | memSave (addr : Word)
  /-- TMR.TICK (R94) -/
  | tick
  /-- SEQ.START (R118) -/
  | seqStart
  /-- SEQ.CONV (R120) -/
  | seqConv
  /-- SG.ACCEPT c (R152) -/
  | sgAccept (c : Chan)
  /-- SG.ELEM c (R155) -/
  | sgElem (c : Chan)
deriving DecidableEq, Repr, Inhabited

/-- The acquisition paths a host may run (R8 PIPELINE_PATH, R194). -/
inductive PipelinePath where
  | timerIrq
  | scatterGather
  | blockingRead
deriving DecidableEq, Repr, Inhabited

end Sys2Proof
end

