-- ==== Sys2Proof/Machine/RegMap.lean ====
section
/-! DEFINITION. The register map: the assigned offsets of the window (spec/10_state.md R17). -/

namespace Sys2Proof

/-- The offset of each register (R17). -/
def regOffset : Reg → BitVec 12
  | .tmrCtl => 0x000#12
  | .tmrLoad => 0x004#12
  | .tmrValue => 0x008#12
  | .adcCtl => 0x100#12
  | .adcStepcfg => 0x104#12
  | .adcPssi => 0x108#12
  | .adcRis => 0x10C#12
  | .adcIm => 0x110#12
  | .adcIsc => 0x114#12
  | .adcFifo => 0x118#12
  | .adcFstat => 0x11C#12
  | .sgCfg => 0x200#12
  | .sgCtlbase => 0x204#12
  | .sgEnaset => 0x208#12
  | .sgEnaclr => 0x20C#12
  | .sgAltset => 0x210#12
  | .sgAltclr => 0x214#12
  | .sgSwreq => 0x218#12
  | .sgErrclr => 0x21C#12
  | .sgDone => 0x220#12
  | .sgDoneim => 0x224#12
  | .sgActive => 0x228#12

/-- Every register, in the order of R17's table. -/
def allRegs : List Reg :=
  [.tmrCtl, .tmrLoad, .tmrValue, .adcCtl, .adcStepcfg, .adcPssi, .adcRis, .adcIm, .adcIsc, .adcFifo, .adcFstat] ++
  [.sgCfg, .sgCtlbase, .sgEnaset, .sgEnaclr, .sgAltset, .sgAltclr, .sgSwreq, .sgErrclr, .sgDone, .sgDoneim, .sgActive]

/-- The register at an offset, if one is assigned there (R17, R57). -/
def regAt (off : BitVec 12) : Option Reg :=
  allRegs.find? fun r => regOffset r == off

/-- The transaction word of a read of `r`: W = 0 (R68, R69). -/
def readTxn (r : Reg) : TxnWord := (regOffset r).setWidth 13

/-- The transaction word of a write of `r`: W = 1 (R68, R69). -/
def writeTxn (r : Reg) : TxnWord := 0x1000#13 ||| (regOffset r).setWidth 13

/-- The W bit of a transaction word (R68). -/
def isWriteTxn (tw : TxnWord) : Bool := tw.getLsbD 12

/-- The offset of a transaction word (R68). -/
def txnOffset (tw : TxnWord) : BitVec 12 := tw.setWidth 12

end Sys2Proof
end

