-- ==== Sys2Proof/WellFormed.lean ====
section
/-! DEFINITION. Which instructions are well formed: those some encoding stands for (spec/30_encoding.md R68, R69). -/

namespace Sys2Proof

/-- BUSERR applies only where no other row does: a width other than 4, or no register at the offset (R69, R50). -/
def busErrApplies (width : Nat) (tw : TxnWord) : Bool :=
  width != 4 || (regAt (txnOffset tw)).isNone

/-- Only a write brings data with its transaction word (R68). -/
def dataOnlyWithWrite (tw : TxnWord) (data : Word) : Bool :=
  isWriteTxn tw || data == 0#32

/-- An instruction is well formed when its operands fit its row: every operand of the other rows does by its type. -/
def wellFormed : Instr → Bool
  | .busErr width tw data => busErrApplies width tw && dataOnlyWithWrite tw data
  | .rdTmrCtl | .wrTmrCtl _ | .rdTmrLoad | .wrTmrLoad _ | .rdTmrValue | .wrTmrValue _ | .rdAdcCtl
  | .wrAdcCtl _ | .rdAdcStepcfg | .wrAdcStepcfg _ | .rdAdcPssi | .wrAdcPssi _ | .rdAdcRis | .wrAdcRis _
  | .rdAdcIm | .wrAdcIm _ | .rdAdcIsc | .wrAdcIsc _ | .rdAdcFifo | .wrAdcFifo _ | .rdAdcFstat
  | .wrAdcFstat _ | .rdSgCfg | .wrSgCfg _ | .rdSgCtlbase | .wrSgCtlbase _ | .rdSgEnaset | .wrSgEnaset _
  | .rdSgEnaclr | .wrSgEnaclr _ | .rdSgAltset | .wrSgAltset _ | .rdSgAltclr | .wrSgAltclr _ | .rdSgSwreq
  | .wrSgSwreq _ | .rdSgErrclr | .wrSgErrclr _ | .rdSgDone | .wrSgDone _ | .rdSgDoneim | .wrSgDoneim _
  | .rdSgActive | .wrSgActive _ | .sgctlStop _ | .sgctlBasic _ | .sgctlAuto _ | .sgctlRsvd3 _
  | .sgctlMemSg _ | .sgctlAltSg _ | .sgctlRsvd6 _ | .sgctlRsvd7 _ => true

end Sys2Proof
end

