-- ==== Sys2Proof/Decode.lean ====
section
/-! DEFINITION. Decoding and encoding: REGTXN and SGCTL words, as bytes in memory order, low byte first
(spec/30_encoding.md R67 to R69, R74, R76, R78; spec/20_memory.md R49). -/

namespace Sys2Proof

/-- Two bytes, the first the less significant (R49). -/
def le16 (b0 b1 : Byte) : BitVec 16 := b1 ++ b0

/-- Four bytes, the first the least significant (R49). -/
def le32 (b0 b1 b2 b3 : Byte) : Word := b3 ++ b2 ++ b1 ++ b0

/-- The k-th byte of a word, the least significant first (R49). -/
def byteOf (w : Word) (k : Nat) : Byte := w.extractLsb' (8 * k) 8

/-- The four bytes of a word in memory order (R49). -/
def wordBytes (w : Word) : List Byte := [byteOf w 0, byteOf w 1, byteOf w 2, byteOf w 3]

/-- A transaction word in the two bytes it is stored in, bits 15:13 zero (R68). -/
def twBytes (tw : TxnWord) : List Byte := [tw.extractLsb' 0 8, (tw.extractLsb' 8 5).setWidth 8]

/-- The bytes of a register transaction: TW, and for a write DATA (R68). -/
def txnBytes (tw : TxnWord) (data : Word) : List Byte :=
  if isWriteTxn tw then twBytes tw ++ wordBytes data else twBytes tw

/-- The code of a transfer mode (R76). -/
def modeCode : XferMode → BitVec 3
  | .stop => 0#3
  | .basic => 1#3
  | .auto => 2#3
  | .rsvd3 => 3#3
  | .memSg => 4#3
  | .altSg => 5#3
  | .rsvd6 => 6#3
  | .rsvd7 => 7#3

/-- The transfer mode of a code (R76). -/
def modeOfCode (b : BitVec 3) : XferMode :=
  match b.toNat with
  | 0 => .stop
  | 1 => .basic
  | 2 => .auto
  | 3 => .rsvd3
  | 4 => .memSg
  | 5 => .altSg
  | 6 => .rsvd6
  | _ => .rsvd7

/-- XFERMODE of a control word (R74). -/
def ctlMode (w : Word) : XferMode := modeOfCode (w.extractLsb' 0 3)

/-- The other fields of a control word (R74). -/
def ctlFields (w : Word) : CtlFields where
  dstInc := w.extractLsb' 30 2
  dstSize := w.extractLsb' 28 2
  srcInc := w.extractLsb' 26 2
  srcSize := w.extractLsb' 24 2
  rsvHi := w.extractLsb' 18 6
  arbSize := w.extractLsb' 14 4
  xferSize := w.extractLsb' 4 10
  rsvLo := w.extractLsb' 3 1

/-- A control word assembled from its fields (R78). -/
def ctlWord (m : XferMode) (f : CtlFields) : Word :=
  f.dstInc ++ f.dstSize ++ f.srcInc ++ f.srcSize ++ f.rsvHi ++ f.arbSize ++ f.xferSize ++ f.rsvLo ++ modeCode m

/-- The SGCTL row of a mode (R76). -/
def ctlInstr (m : XferMode) (f : CtlFields) : Instr :=
  match m with
  | .stop => .sgctlStop f
  | .basic => .sgctlBasic f
  | .auto => .sgctlAuto f
  | .rsvd3 => .sgctlRsvd3 f
  | .memSg => .sgctlMemSg f
  | .altSg => .sgctlAltSg f
  | .rsvd6 => .sgctlRsvd6 f
  | .rsvd7 => .sgctlRsvd7 f

/-- The read row of a register (R69). -/
def readInstr : Reg → Instr
  | .tmrCtl => .rdTmrCtl
  | .tmrLoad => .rdTmrLoad
  | .tmrValue => .rdTmrValue
  | .adcCtl => .rdAdcCtl
  | .adcStepcfg => .rdAdcStepcfg
  | .adcPssi => .rdAdcPssi
  | .adcRis => .rdAdcRis
  | .adcIm => .rdAdcIm
  | .adcIsc => .rdAdcIsc
  | .adcFifo => .rdAdcFifo
  | .adcFstat => .rdAdcFstat
  | .sgCfg => .rdSgCfg
  | .sgCtlbase => .rdSgCtlbase
  | .sgEnaset => .rdSgEnaset
  | .sgEnaclr => .rdSgEnaclr
  | .sgAltset => .rdSgAltset
  | .sgAltclr => .rdSgAltclr
  | .sgSwreq => .rdSgSwreq
  | .sgErrclr => .rdSgErrclr
  | .sgDone => .rdSgDone
  | .sgDoneim => .rdSgDoneim
  | .sgActive => .rdSgActive

/-- The write row of a register (R69). -/
def writeInstr (r : Reg) (data : Word) : Instr :=
  match r with
  | .tmrCtl => .wrTmrCtl data
  | .tmrLoad => .wrTmrLoad data
  | .tmrValue => .wrTmrValue data
  | .adcCtl => .wrAdcCtl data
  | .adcStepcfg => .wrAdcStepcfg data
  | .adcPssi => .wrAdcPssi data
  | .adcRis => .wrAdcRis data
  | .adcIm => .wrAdcIm data
  | .adcIsc => .wrAdcIsc data
  | .adcFifo => .wrAdcFifo data
  | .adcFstat => .wrAdcFstat data
  | .sgCfg => .wrSgCfg data
  | .sgCtlbase => .wrSgCtlbase data
  | .sgEnaset => .wrSgEnaset data
  | .sgEnaclr => .wrSgEnaclr data
  | .sgAltset => .wrSgAltset data
  | .sgAltclr => .wrSgAltclr data
  | .sgSwreq => .wrSgSwreq data
  | .sgErrclr => .wrSgErrclr data
  | .sgDone => .wrSgDone data
  | .sgDoneim => .wrSgDoneim data
  | .sgActive => .wrSgActive data

/-- The row a register transaction of `width` bytes matches; BUSERR where no other row does (R69, R50). -/
def txnInstr (width : Nat) (tw : TxnWord) (data : Word) : Instr :=
  if width = 4 then
    match regAt (txnOffset tw) with
    | some r => if isWriteTxn tw then writeInstr r data else readInstr r
    | none => .busErr width tw data
  else .busErr width tw data

/-- Decodes the first instruction of `bytes` and answers it with the bytes left over. The format is told by where the
bits come from (R67); every transaction word and every control word is some row. -/
def decode (src : Source) (bytes : List Byte) : Except DecodeError (Instr × List Byte) :=
  match src, bytes with
  | .regTxn width, b0 :: b1 :: rest =>
    let half := le16 b0 b1
    let tw := half.setWidth 13
    if half.extractLsb' 13 3 = 0#3 then
      if isWriteTxn tw then
        match rest with
        | b2 :: b3 :: b4 :: b5 :: rest' => .ok (txnInstr width tw (le32 b2 b3 b4 b5), rest')
        | _ => .error .truncated
      else .ok (txnInstr width tw 0#32, rest)
    else .error .notATransaction
  | .sgCtl, b0 :: b1 :: b2 :: b3 :: rest =>
    let w := le32 b0 b1 b2 b3
    .ok (ctlInstr (ctlMode w) (ctlFields w), rest)
  | .regTxn _, _ => .error .truncated
  | .sgCtl, _ => .error .truncated

/-- Where the bits of an instruction come from (R67): a register transaction is 4 bytes wide (R50), BUSERR as it says. -/
def sourceOf : Instr → Source
  | .busErr width _ _ => .regTxn width
  | .rdTmrCtl | .wrTmrCtl _ | .rdTmrLoad | .wrTmrLoad _ | .rdTmrValue | .wrTmrValue _ | .rdAdcCtl
  | .wrAdcCtl _ | .rdAdcStepcfg | .wrAdcStepcfg _ | .rdAdcPssi | .wrAdcPssi _ | .rdAdcRis | .wrAdcRis _
  | .rdAdcIm | .wrAdcIm _ | .rdAdcIsc | .wrAdcIsc _ | .rdAdcFifo | .wrAdcFifo _ | .rdAdcFstat
  | .wrAdcFstat _ | .rdSgCfg | .wrSgCfg _ | .rdSgCtlbase | .wrSgCtlbase _ | .rdSgEnaset | .wrSgEnaset _
  | .rdSgEnaclr | .wrSgEnaclr _ | .rdSgAltset | .wrSgAltset _ | .rdSgAltclr | .wrSgAltclr _ | .rdSgSwreq
  | .wrSgSwreq _ | .rdSgErrclr | .wrSgErrclr _ | .rdSgDone | .wrSgDone _ | .rdSgDoneim | .wrSgDoneim _
  | .rdSgActive | .wrSgActive _ => .regTxn 4
  | .sgctlStop _ | .sgctlBasic _ | .sgctlAuto _ | .sgctlRsvd3 _ | .sgctlMemSg _ | .sgctlAltSg _
  | .sgctlRsvd6 _ | .sgctlRsvd7 _ => .sgCtl

/-- The bytes of a well-formed instruction (R68, R69, R78). -/
def encode : Instr → List Byte
  | .rdTmrCtl => txnBytes (readTxn .tmrCtl) 0#32
  | .wrTmrCtl data => txnBytes (writeTxn .tmrCtl) data
  | .rdTmrLoad => txnBytes (readTxn .tmrLoad) 0#32
  | .wrTmrLoad data => txnBytes (writeTxn .tmrLoad) data
  | .rdTmrValue => txnBytes (readTxn .tmrValue) 0#32
  | .wrTmrValue data => txnBytes (writeTxn .tmrValue) data
  | .rdAdcCtl => txnBytes (readTxn .adcCtl) 0#32
  | .wrAdcCtl data => txnBytes (writeTxn .adcCtl) data
  | .rdAdcStepcfg => txnBytes (readTxn .adcStepcfg) 0#32
  | .wrAdcStepcfg data => txnBytes (writeTxn .adcStepcfg) data
  | .rdAdcPssi => txnBytes (readTxn .adcPssi) 0#32
  | .wrAdcPssi data => txnBytes (writeTxn .adcPssi) data
  | .rdAdcRis => txnBytes (readTxn .adcRis) 0#32
  | .wrAdcRis data => txnBytes (writeTxn .adcRis) data
  | .rdAdcIm => txnBytes (readTxn .adcIm) 0#32
  | .wrAdcIm data => txnBytes (writeTxn .adcIm) data
  | .rdAdcIsc => txnBytes (readTxn .adcIsc) 0#32
  | .wrAdcIsc data => txnBytes (writeTxn .adcIsc) data
  | .rdAdcFifo => txnBytes (readTxn .adcFifo) 0#32
  | .wrAdcFifo data => txnBytes (writeTxn .adcFifo) data
  | .rdAdcFstat => txnBytes (readTxn .adcFstat) 0#32
  | .wrAdcFstat data => txnBytes (writeTxn .adcFstat) data
  | .rdSgCfg => txnBytes (readTxn .sgCfg) 0#32
  | .wrSgCfg data => txnBytes (writeTxn .sgCfg) data
  | .rdSgCtlbase => txnBytes (readTxn .sgCtlbase) 0#32
  | .wrSgCtlbase data => txnBytes (writeTxn .sgCtlbase) data
  | .rdSgEnaset => txnBytes (readTxn .sgEnaset) 0#32
  | .wrSgEnaset data => txnBytes (writeTxn .sgEnaset) data
  | .rdSgEnaclr => txnBytes (readTxn .sgEnaclr) 0#32
  | .wrSgEnaclr data => txnBytes (writeTxn .sgEnaclr) data
  | .rdSgAltset => txnBytes (readTxn .sgAltset) 0#32
  | .wrSgAltset data => txnBytes (writeTxn .sgAltset) data
  | .rdSgAltclr => txnBytes (readTxn .sgAltclr) 0#32
  | .wrSgAltclr data => txnBytes (writeTxn .sgAltclr) data
  | .rdSgSwreq => txnBytes (readTxn .sgSwreq) 0#32
  | .wrSgSwreq data => txnBytes (writeTxn .sgSwreq) data
  | .rdSgErrclr => txnBytes (readTxn .sgErrclr) 0#32
  | .wrSgErrclr data => txnBytes (writeTxn .sgErrclr) data
  | .rdSgDone => txnBytes (readTxn .sgDone) 0#32
  | .wrSgDone data => txnBytes (writeTxn .sgDone) data
  | .rdSgDoneim => txnBytes (readTxn .sgDoneim) 0#32
  | .wrSgDoneim data => txnBytes (writeTxn .sgDoneim) data
  | .rdSgActive => txnBytes (readTxn .sgActive) 0#32
  | .wrSgActive data => txnBytes (writeTxn .sgActive) data
  | .busErr _ tw data => txnBytes tw data
  | .sgctlStop f => wordBytes (ctlWord .stop f)
  | .sgctlBasic f => wordBytes (ctlWord .basic f)
  | .sgctlAuto f => wordBytes (ctlWord .auto f)
  | .sgctlRsvd3 f => wordBytes (ctlWord .rsvd3 f)
  | .sgctlMemSg f => wordBytes (ctlWord .memSg f)
  | .sgctlAltSg f => wordBytes (ctlWord .altSg f)
  | .sgctlRsvd6 f => wordBytes (ctlWord .rsvd6 f)
  | .sgctlRsvd7 f => wordBytes (ctlWord .rsvd7 f)

/-- The instruction the decoder reads from an opcode-table word: a REGTXN row has 13 bits, kept in 16, and a write's DATA
is 0; any other width is a 32-bit control word (R67). -/
def decodeTableWord (nbits w : Nat) : Option Instr :=
  let bytes := wordBytes (BitVec.ofNat 32 w) ++ [0#8, 0#8]
  let src := if nbits = 13 ∨ nbits = 16 then Source.regTxn 4 else Source.sgCtl
  if w < 2 ^ 32 then
    match decode src bytes with
    | .ok (i, _) => some i
    | .error _ => none
  else none

end Sys2Proof
end

