-- ==== Sys2Proof/Config.lean ====
section
/-! DEFINITION. The parameters of R8: the settled ones as numbers, the OPEN ones and every `draw` of R10 as constants with
no body, so that nothing can be proved of their values (spec/00_scope.md R8, R10; spec/92_eei_decisions.md). -/

namespace Sys2Proof.Config

/-- NSTEPS (R8). -/
def nSteps : Nat := 4

/-- MAX_PIPELINE_CHANNELS on the timer path (R8); the scatter-gather path uses one. -/
def maxPipelineChannels : Nat := 3

/-- FIFO_DEPTH (R8, D15). -/
def fifoDepth : Nat := 4

/-- ADC_DMA_CH, the channel the sequencer requests (R8, D19). -/
def adcDmaCh : Chan := 0

/-- Trigger-source code PROCESSOR (R71). -/
def trigProcessor : BitVec 2 := 0#2

/-- Trigger-source code TIMER (R71). -/
def trigTimer : BitVec 2 := 1#2

/-- Trigger-source code ALWAYS (R71). -/
def trigAlways : BitVec 2 := 2#2

/-- BLOCK_BASE, bits 31:12 (R8, R46): OPEN, a multiple of 4096. It is the page the platform maps the window at; State
carries it, and the reset state holds this value. -/
opaque blockPage : BitVec 20

/-- F_CLK in ticks per second (R8, R85): OPEN. -/
opaque fClk : Nat

/-- PIPELINE_PATH (R8, R194): OPEN. It says which procedures a host runs; no step of the block reads it. -/
opaque pipelinePath : PipelinePath

/-- BUS_RESP (R8, R58): OPEN. Whether the platform answers ok to the SGE access of `size` and `kind` at `addr`; the last
argument stands for the history. -/
opaque busResp (addr : Word) (size : Size) (kind : AccessKind) (history : Nat) : Bool

/-- `draw Sample(i)` (R10, R13): the n-th free input's raw code on analog input i. -/
opaque freeSample (input : BitVec 4) (n : Nat) : Sample

/-- `draw Any32` (R10): the value an underflowing FIFO read returns as the n-th free input (R114). -/
opaque freeWord (n : Nat) : Word

/-- The contents of system memory at power-on (R42, R214: `draw Any32` until written), by byte address. -/
opaque powerOnByte (addr : Nat) : Byte

/-- Whether the host's subtraction F_CLK / R - 1 = -1 wraps or traps (R181: one or the other). -/
opaque hostArithmeticWraps : Bool

/-- What a sample rate of 0 makes the host write to TMR_LOAD, if anything (R96 gives the division by 0 no quotient). -/
opaque zeroRateReload : Option Word

/-- The operation that happens next when no script says (R7, R204, K33, K34): which agent acts, and what the host does. -/
opaque freeOp (n : Nat) : Op

end Sys2Proof.Config
end

