-- ==== Sys2Proof/Machine/State.lean ====
section
/-! DEFINITION. The state of ADCSEQ-SG as plain data, the model faults, and the state after reset
(spec/10_state.md, spec/60_exceptions.md R196 and R197, spec/70_reset_and_hazards.md R210 to R217). -/

namespace Sys2Proof.Machine

/-- The model faults F01 to F10 (R197). Each stops the run and discards the step (R196): safe, since no behaviour is
claimed where the spec gives none. -/
inductive Fault where
  /-- TMR_ZERO_LOAD: raised by writeTmrCtl and writeTmrLoad (R86, R88, R90). Safe. -/
  | F01
  /-- ADC_RSVD_CODE: raised by writeAdcCtl (R103). Safe. -/
  | F02
  /-- SEQ_BUSY_CONFIG: raised by writeAdcCtl and writeAdcStepcfg (R103, R105). Safe. -/
  | F03
  /-- SEQ_NO_END: raised by seqStart (R118). Safe. -/
  | F04
  /-- SG_BAD_MODE: raised by checkCtl (R153). Safe. -/
  | F05
  /-- SG_BAD_CTL: raised by checkCtl (R153). Safe. -/
  | F06
  /-- SG_BAD_SGCOUNT: raised by checkCtl (R153). Safe. -/
  | F07
  /-- SG_ACTIVE_CONFIG: raised by the engine's register writes (R129, R131, R135, R137, R139). Safe. -/
  | F08
  /-- SG_MISALIGNED: raised by sgElement (R156). Safe. -/
  | F09
  /-- HOST_BUS_ERROR: raised by execBusErr (R198). Safe. -/
  | F10
deriving DecidableEq, Repr

/-- Why a step answers no state and no fault. -/
inductive Refusal where
  /-- Answered by exec's arm of an instruction that has no meaning: none here. Safe. -/
  | notModelled (mnemonic : String)
  /-- Answered by step when the fetched bytes are no instruction. Safe. -/
  | undecodable (reason : DecodeError)
deriving DecidableEq, Repr

/-- System memory: the bytes written so far, addresses strictly rising. An address that is not listed was never written
and reads as its power-on byte (R42, R61). -/
abbrev Memory := List Host.Cell

/-- TMR: TMR_CTL's fields, TMR_LOAD and TMR_VALUE (R18 to R20). -/
structure Tmr where
  /-- TMR_CTL bit 0, EN -/
  en : Bool
  /-- TMR_CTL bit 1, PERIODIC -/
  periodic : Bool
  /-- TMR_CTL bit 2, TRIGEN -/
  trigEn : Bool
  /-- TMR_LOAD -/
  load : Word
  /-- TMR_VALUE -/
  value : Word
deriving DecidableEq, Repr

/-- One step's byte of ADC_STEPCFG (R22). -/
structure StepCfg where
  /-- INSEL_k -/
  insel : BitVec 4
  /-- END_k -/
  last : Bool
  /-- IE_k -/
  ie : Bool
deriving DecidableEq, Repr

/-- The registers of SEQ: ADC_CTL's fields, ADC_STEPCFG, ADC_RIS and ADC_IM (R21, R22, R24, R25). -/
structure Adc where
  /-- ADC_CTL bit 0, SEQ_EN -/
  seqEn : Bool
  /-- ADC_CTL bit 1, DMA_EN -/
  dmaEn : Bool
  /-- ADC_CTL bit 2, VREF -/
  vref : Bool
  /-- ADC_CTL bits 5:4, TRIG -/
  trig : BitVec 2
  /-- ADC_CTL bits 10:8, OVS -/
  ovs : BitVec 3
  /-- ADC_STEPCFG, one record a step -/
  steps : Vector StepCfg 4
  /-- ADC_RIS bits 2:0: UV, OV, INR -/
  ris : BitVec 3
  /-- ADC_IM bits 2:0: UVM, OVM, INRM -/
  im : BitVec 3
deriving DecidableEq, Repr

/-- The sequencer's internal state (R40). -/
structure Seq where
  /-- seq.busy -/
  busy : Bool
  /-- seq.step -/
  step : StepIx
  /-- seq.pending -/
  pending : Bool
  /-- seq.fifo, oldest first -/
  fifo : List Sample
deriving DecidableEq, Repr

/-- What is left of a request's burst: a number of elements, or no limit (INF, R41). -/
inductive Budget where
  | elems (n : Nat)
  | inf
deriving DecidableEq, Repr

/-- The run state of a channel, sg.rs[c] (R41). -/
inductive RunState where
  | idle
  | active (budget : Budget) (chain : Bool)
deriving DecidableEq, Repr

/-- The transfer engine's state (R29 to R39, R41); bit c of a vector is channel c's. -/
structure Sge where
  /-- SG_MASTEREN -/
  masterEn : Bool
  /-- SG_CTLBASE -/
  ctlBase : Word
  /-- SG_ENABLE -/
  enable : Word
  /-- SG_ALTSEL -/
  altSel : Word
  /-- sg.req -/
  req : Word
  /-- SG_DONE -/
  done : Word
  /-- SG_DONEIM -/
  doneIm : Word
  /-- SG_ERR -/
  err : Bool
  /-- sg.rs -/
  rs : Vector RunState 32
deriving DecidableEq, Repr

/-- THE MODEL'S OWN: what the fetch of one SGE step hands to the control word's meaning, empty between steps (R65). -/
structure SgLatch where
  /-- the channel the step serves -/
  chan : Chan
  /-- SRC_END as read at the start of an element step -/
  srcEnd : Word
  /-- DST_END as read at the start of an element step -/
  dstEnd : Word
deriving DecidableEq, Repr

/-- THE MODEL'S OWN: the inputs the environment has already chosen, and how many free ones were drawn. Each list is used
from its head; when it is empty the input is free (R10, Config). -/
structure Env where
  /-- the operations to come (R83) -/
  script : List Op
  /-- raw conversions to come (`draw Sample`) -/
  samples : List Sample
  /-- values of underflowing FIFO reads to come (`draw Any32`) -/
  words : List Word
  /-- answers of BUS_RESP to come -/
  responses : List Bool
  /-- how many free inputs were drawn -/
  draws : Nat
deriving DecidableEq, Repr

/-- The machine (R15, R40 to R44). -/
structure State where
  /-- the trigger timer -/
  tmr : Tmr
  /-- the sequencer's registers -/
  adc : Adc
  /-- the sequencer's internal state -/
  seq : Seq
  /-- the transfer engine -/
  sge : Sge
  /-- system memory outside the register window -/
  mem : Memory
  /-- BLOCK_BASE bits 31:12, the platform's parameter (R46) -/
  blockPage : BitVec 20
  /-- THE MODEL'S OWN: the value the host's last read returned (R83, `-> v`) -/
  rdata : Word
  /-- the words of the SGE step in progress -/
  latch : SgLatch
  /-- the environment's inputs -/
  env : Env
  /-- the model-level fault state (R44): none is NONE -/
  fault : Option Fault
deriving DecidableEq, Repr

/-- The latch between steps. -/
def SgLatch.empty : SgLatch := { chan := 0, srcEnd := 0#32, dstEnd := 0#32 }

/-- A step's configuration after reset: input 0, no END, no IE (R211). -/
def StepCfg.reset : StepCfg := { insel := 0#4, last := false, ie := false }

/-- The state after reset (R211, R212, R216): memory is not reset and nothing has been written to it (R214). -/
def State.reset : State where
  tmr := { en := false, periodic := false, trigEn := false, load := 0#32, value := 0#32 }
  adc := { seqEn := false, dmaEn := false, vref := false, trig := 0#2, ovs := 0#3,
           steps := Vector.replicate 4 StepCfg.reset, ris := 0#3, im := 0#3 }
  seq := { busy := false, step := 0, pending := false, fifo := [] }
  sge := { masterEn := false, ctlBase := 0#32, enable := 0#32, altSel := 0#32, req := 0#32, done := 0#32,
           doneIm := 0#32, err := false, rs := Vector.replicate 32 .idle }
  mem := []
  blockPage := Config.blockPage
  rdata := 0#32
  latch := SgLatch.empty
  env := { script := [], samples := [], words := [], responses := [], draws := 0 }
  fault := none

end Sys2Proof.Machine
end

