-- ==== Sys2Proof/Machine/Ops.lean ====
section
/-! DEFINITION. The named operations every meaning is built from: raising a model fault, bytes of memory, free inputs,
channel vectors and run states, the trigger latch and the request latch. -/

namespace Sys2Proof.Machine

/-! ### Outcomes -/

/-- `raise Fault(Fnn)` (R10, R196): the step answers the fault and every change it made is discarded. The block takes no
exception of its own: it saves no context, vectors nowhere and has no return (R206). -/
def raise {α : Type} (f : Fault) : Except Fault α := .error f

/-- The outcome of a step's pseudocode: its end state, or the fault it raised (R196). -/
def outcomeOf (r : Except Fault State) : Host.Outcome State Fault Refusal :=
  match r with
  | .ok s => .next s
  | .error f => .fault f

/-- A host read's outcome: the value read becomes the transaction's result (R83). -/
def hostReads (r : Word × State) : Host.Outcome State Fault Refusal :=
  .next { r.2 with rdata := r.1 }

/-! ### Memory -/

/-- The byte last written at an address, if any was (R61). -/
def memGet (m : Memory) (a : Nat) : Option Byte :=
  match m with
  | [] => none
  | (k, v) :: rest => if k = a then some v else memGet rest a

/-- Writes one byte, keeping the addresses strictly rising. -/
def memSet (m : Memory) (a : Nat) (b : Byte) : Memory :=
  match m with
  | [] => [(a, b)]
  | (k, v) :: rest =>
    if a < k then (a, b) :: (k, v) :: rest
    else if a = k then (a, b) :: rest
    else (k, v) :: memSet rest a b

/-- The canonical form: addresses below 2^32, strictly rising. Every entry is a byte some access wrote; an unlisted
address was never written. -/
def memWf (m : Memory) : Bool :=
  decide (m.Pairwise fun c d => c.1 < d.1) && m.all fun c => decide (c.1 < 2 ^ 32)

/-- A byte of memory: the last one written there, or the power-on byte (R42, R61). -/
def memByte (m : Memory) (a : Word) : Byte := (memGet m a.toNat).getD (Config.powerOnByte a.toNat)

/-- The little-endian value of `size` bytes at `a`, zero-extended (R49, R10 MemRead). -/
def memRead (m : Memory) (a : Word) (size : Size) : Word :=
  match size with
  | .byte => (memByte m a).setWidth 32
  | .half => (le16 (memByte m a) (memByte m (a + 1#32))).setWidth 32
  | .word => le32 (memByte m a) (memByte m (a + 1#32)) (memByte m (a + 2#32)) (memByte m (a + 3#32))

/-- Stores the low `size` bytes of `v` at `a`, little-endian (R49, R10 MemWrite). -/
def memWrite (m : Memory) (a : Word) (size : Size) (v : Word) : Memory :=
  let m1 := memSet m a.toNat (byteOf v 0)
  match size with
  | .byte => m1
  | .half => memSet m1 (a + 1#32).toNat (byteOf v 1)
  | .word =>
    let m2 := memSet m1 (a + 1#32).toNat (byteOf v 1)
    let m3 := memSet m2 (a + 2#32).toNat (byteOf v 2)
    memSet m3 (a + 3#32).toNat (byteOf v 3)

/-- How many bytes an access of a size moves (R47). -/
def sizeBytes : Size → Nat
  | .byte => 1
  | .half => 2
  | .word => 4

/-- An address lies in the register window: its page is BLOCK_BASE's (R46). -/
def inWindow (s : State) (a : Word) : Bool := a.extractLsb' 12 20 == s.blockPage

/-- The system address of an offset of the window (R46). -/
def windowAddr (s : State) (off : BitVec 12) : Word := s.blockPage ++ off

/-! ### Free inputs -/

/-- Counts one free input. -/
def countDraw (s : State) : State := { s with env := { s.env with draws := s.env.draws + 1 } }

/-- `draw Sample(i)` (R10, R13): the next chosen raw conversion, or a free one. -/
def drawSample (input : BitVec 4) (s : State) : Sample × State :=
  match s.env.samples with
  | v :: rest => (v, { s with env := { s.env with samples := rest } })
  | [] => (Config.freeSample input s.env.draws, countDraw s)

/-- n draws of one input and their sum (R120). -/
def drawSum (input : BitVec 4) : Nat → State → Nat × State
  | 0, s => (0, s)
  | n + 1, s =>
    let (v, s1) := drawSample input s
    let (total, s2) := drawSum input n s1
    (v.toNat + total, s2)

/-- `draw Any32` (R10). -/
def drawWord (s : State) : Word × State :=
  match s.env.words with
  | v :: rest => (v, { s with env := { s.env with words := rest } })
  | [] => (Config.freeWord s.env.draws, countDraw s)

/-- BUS_RESP's answer to one SGE access outside the window (R58). -/
def drawResponse (a : Word) (size : Size) (kind : AccessKind) (s : State) : Bool × State :=
  match s.env.responses with
  | ok :: rest => (ok, { s with env := { s.env with responses := rest } })
  | [] => (Config.busResp a size kind s.env.draws, countDraw s)

/-- The operation that happens next: the script's, or a free one (R7, R204). -/
def nextOp (s : State) : Op × State :=
  match s.env.script with
  | op :: rest => (op, { s with env := { s.env with script := rest } })
  | [] => (Config.freeOp s.env.draws, countDraw s)

/-! ### Channel vectors and run states -/

/-- The vector with only channel c's bit set. -/
def chanBit (c : Chan) : Word := 1#32 <<< c.val

/-- Channel c's bit of a vector. -/
def hasChan (v : Word) (c : Chan) : Bool := v.getLsbD c.val

/-- v with channel c's bit set. -/
def setChan (v : Word) (c : Chan) : Word := v ||| chanBit c

/-- v with channel c's bit cleared. -/
def clearChan (v : Word) (c : Chan) : Word := v &&& ~~~ chanBit c

/-- The word whose bit k is `p k`, for k below n. -/
def wordOf (p : Nat → Bool) : Nat → Word
  | 0 => 0#32
  | n + 1 => if p n then wordOf p n ||| (1#32 <<< n) else wordOf p n

/-- A run state is ACTIVE. -/
def RunState.isActive : RunState → Bool
  | .idle => false
  | .active _ _ => true

/-- SG_ACTIVE: bit c is 1 exactly when sg.rs[c] is not IDLE (R39). -/
def activeVector (g : Sge) : Word :=
  wordOf (fun k => (g.rs[k]?.getD .idle).isActive) 32

/-- `sg.rs[c] <- r`. -/
def setRun (c : Chan) (r : RunState) (s : State) : State :=
  { s with sge := { s.sge with rs := s.sge.rs.set c.val r c.isLt } }

/-- `SG_ENABLE[c] <- 0`. -/
def disableChan (c : Chan) (s : State) : State :=
  { s with sge := { s.sge with enable := clearChan s.sge.enable c } }

/-- `sg.req[c] <- 0`. -/
def clearRequest (c : Chan) (s : State) : State :=
  { s with sge := { s.sge with req := clearChan s.sge.req c } }

/-- `SG_ALTSEL[c] <- 0`. -/
def selectPrimary (c : Chan) (s : State) : State :=
  { s with sge := { s.sge with altSel := clearChan s.sge.altSel c } }

/-- `SG_ALTSEL[c] <- 1`. -/
def selectAlternate (c : Chan) (s : State) : State :=
  { s with sge := { s.sge with altSel := setChan s.sge.altSel c } }

/-! ### The trigger latch and the request latch -/

/-- Latch(src) (R100). -/
def latchTrigger (src : BitVec 2) (s : State) : State :=
  if s.adc.seqEn ∧ s.adc.trig = src then { s with seq := { s.seq with pending := true } } else s

/-- SG.Request(c) for every channel c of `chans` (R150). -/
def requestChans (chans : Word) (s : State) : State :=
  if s.sge.masterEn then
    { s with sge := { s.sge with req := s.sge.req ||| (chans &&& s.sge.enable) } }
  else s

/-! ### Reset -/

/-- The system reset applied to s (R210): every register and internal state item takes its reset value; system memory is
not changed (R214), nor are the platform, the host's side and the model's own record of a fault (R44). It is no step of a
run (R216). -/
def applyReset (s : State) : State :=
  { s with tmr := State.reset.tmr, adc := State.reset.adc, seq := State.reset.seq, sge := State.reset.sge,
           latch := State.reset.latch }

end Sys2Proof.Machine
end

