-- ==== Sys2Proof/Machine/Flags.lean ====
section
/-! DEFINITION. The status flags, what sets and clears them, and the three interrupt lines
(spec/10_state.md R24 to R26, R36, R37, R45; spec/60_exceptions.md R199 to R203). -/

namespace Sys2Proof.Machine

/-- ADC_RIS.INR's bit (R24). -/
def bitINR : BitVec 3 := 1#3

/-- ADC_RIS.OV's bit (R24). -/
def bitOV : BitVec 3 := 2#3

/-- ADC_RIS.UV's bit (R24). -/
def bitUV : BitVec 3 := 4#3

/-- Sets flags of ADC_RIS (R199). -/
def setRis (flags : BitVec 3) (s : State) : State :=
  { s with adc := { s.adc with ris := s.adc.ris ||| flags } }

/-- Clears the flags of ADC_RIS written as 1 (R26, R113). -/
def clearRis (flags : BitVec 3) (s : State) : State :=
  { s with adc := { s.adc with ris := s.adc.ris &&& ~~~ flags } }

/-- `SG_ERR <- 1` (R157, R158, R161). -/
def setErr (s : State) : State := { s with sge := { s.sge with err := true } }

/-- `SG_DONE[c] <- 1` (R161). -/
def setDone (c : Chan) (s : State) : State := { s with sge := { s.sge with done := setChan s.sge.done c } }

/-- The masked status, ADC_ISC's read value (R26). -/
def maskedRis (s : State) : BitVec 3 := s.adc.ris &&& s.adc.im

/-- The level of ADC_IRQ (R200). -/
def adcIrq (s : State) : Bool := maskedRis s != 0#3

/-- The level of SG_IRQ (R201). -/
def sgIrq (s : State) : Bool := (s.sge.done &&& s.sge.doneIm) != 0#32

/-- The level of SG_ERR_IRQ (R202). -/
def sgErrIrq (s : State) : Bool := s.sge.err

end Sys2Proof.Machine
end

