-- ==== Sys2Proof/Machine/Timer.lean ====
section
/-! DEFINITION. TMR: the timer's registers, the meanings of their transactions, and the tick (spec/40_timer.md). -/

namespace Sys2Proof.Machine

/-- Three flags as a register's bits 2:0. -/
def flags3 (b2 b1 b0 : Bool) : Word :=
  (BitVec.ofBool b2 ++ BitVec.ofBool b1 ++ BitVec.ofBool b0).setWidth 32

/-! ### Register values and writes, for the host and for the engine (R87 to R93) -/

/-- The value of TMR_CTL (R87). -/
def readTmrCtl (s : State) : Word := flags3 s.tmr.trigEn s.tmr.periodic s.tmr.en

/-- A write of TMR_CTL (R88): the 0-to-1 edge of EN loads the counter. -/
def writeTmrCtl (data : Word) (s : State) : Except Fault State :=
  let newEn := data.getLsbD 0
  let newPeriodic := data.getLsbD 1
  let newTrigEn := data.getLsbD 2
  if newEn && newPeriodic && s.tmr.load == 0#32 then raise .F01
  else
    let value := if !s.tmr.en && newEn then s.tmr.load else s.tmr.value
    .ok { s with tmr := { s.tmr with en := newEn, periodic := newPeriodic, trigEn := newTrigEn, value := value } }

/-- The value of TMR_LOAD (R89). -/
def readTmrLoad (s : State) : Word := s.tmr.load

/-- A write of TMR_LOAD (R90): the counter is not changed (R91). -/
def writeTmrLoad (data : Word) (s : State) : Except Fault State :=
  if s.tmr.en && s.tmr.periodic && data == 0#32 then raise .F01
  else .ok { s with tmr := { s.tmr with load := data } }

/-- The value of TMR_VALUE (R92). -/
def readTmrValue (s : State) : Word := s.tmr.value

/-- A write of TMR_VALUE is ignored (R93). -/
def writeTmrValue (_data : Word) (s : State) : Except Fault State := .ok s

/-! ### The meanings -/

/-- RD.TMR_CTL (R87). -/
def execRdTmrCtl (s : State) : Host.Outcome State Fault Refusal := hostReads (readTmrCtl s, s)

/-- WR.TMR_CTL (R88). -/
def execWrTmrCtl (data : Word) (s : State) : Host.Outcome State Fault Refusal := outcomeOf (writeTmrCtl data s)

/-- RD.TMR_LOAD (R89). -/
def execRdTmrLoad (s : State) : Host.Outcome State Fault Refusal := hostReads (readTmrLoad s, s)

/-- WR.TMR_LOAD (R90). -/
def execWrTmrLoad (data : Word) (s : State) : Host.Outcome State Fault Refusal := outcomeOf (writeTmrLoad data s)

/-- RD.TMR_VALUE (R92). -/
def execRdTmrValue (s : State) : Host.Outcome State Fault Refusal := hostReads (readTmrValue s, s)

/-- WR.TMR_VALUE (R93). -/
def execWrTmrValue (data : Word) (s : State) : Host.Outcome State Fault Refusal := outcomeOf (writeTmrValue data s)

/-! ### The tick -/

/-- TMR.TICK is enabled (R94). -/
def tickEnabled (s : State) : Bool := s.tmr.en

/-- What TRIGEN does at a timeout: the trigger reaches the sequencer in the same step (R94, R101). -/
def timeoutTrigger (s : State) : State := if s.tmr.trigEn then latchTrigger Config.trigTimer s else s

/-- TMR.TICK (R94). -/
def tmrTick (s : State) : State :=
  if s.tmr.value = 0#32 then
    let s1 := timeoutTrigger s
    if s.tmr.periodic then { s1 with tmr := { s1.tmr with value := s1.tmr.load } }
    else { s1 with tmr := { s1.tmr with en := false } }
  else { s with tmr := { s.tmr with value := s.tmr.value - 1#32 } }

/-- n ticks, one after another. -/
def tmrTicks : Nat → State → State
  | 0, s => s
  | n + 1, s => tmrTicks n (tmrTick s)

end Sys2Proof.Machine
end

