-- ==== Sys2Proof/Machine/Sequencer.lean ====
section
/-! DEFINITION. SEQ: the sequencer's registers, the meanings of their transactions, and its two steps
(spec/41_adc_sequencer.md). -/

namespace Sys2Proof.Machine

/-! ### Register values and writes, for the host and for the engine (R102 to R117) -/

/-- The value of ADC_CTL (R102). -/
def readAdcCtl (s : State) : Word :=
  (s.adc.ovs ++ 0#2 ++ s.adc.trig ++ 0#1 ++ BitVec.ofBool s.adc.vref ++ BitVec.ofBool s.adc.dmaEn ++
    BitVec.ofBool s.adc.seqEn).setWidth 32

/-- A write of ADC_CTL (R103): reserved codes and a running sequence that stays enabled are refused; every write drops a
latched trigger, and disabling aborts the sequence in progress. -/
def writeAdcCtl (data : Word) (s : State) : Except Fault State :=
  let newEn := data.getLsbD 0
  let newTrig := data.extractLsb' 4 2
  let newOvs := data.extractLsb' 8 3
  if newTrig == 3#2 || newOvs == 7#3 then raise .F02
  else if s.seq.busy && newEn then raise .F03
  else
    let seq1 := if s.seq.busy then { s.seq with busy := false, step := 0 } else s.seq
    .ok { s with
      seq := { seq1 with pending := false }
      adc := { s.adc with seqEn := newEn, dmaEn := data.getLsbD 1, vref := data.getLsbD 2, trig := newTrig, ovs := newOvs } }

/-- The byte of one step's configuration (R72). -/
def stepByte (c : StepCfg) : Byte := 0#2 ++ BitVec.ofBool c.ie ++ BitVec.ofBool c.last ++ c.insel

/-- The configuration a byte stands for, its bits 7:6 ignored (R72, R105). -/
def stepOfByte (b : Byte) : StepCfg :=
  { insel := b.extractLsb' 0 4, last := b.getLsbD 4, ie := b.getLsbD 5 }

/-- The value of ADC_STEPCFG (R104). -/
def readAdcStepcfg (s : State) : Word :=
  le32 (stepByte s.adc.steps[0]) (stepByte s.adc.steps[1]) (stepByte s.adc.steps[2]) (stepByte s.adc.steps[3])

/-- A write of ADC_STEPCFG (R105). -/
def writeAdcStepcfg (data : Word) (s : State) : Except Fault State :=
  if s.seq.busy then raise .F03
  else
    .ok { s with adc := { s.adc with
      steps := #v[stepOfByte (byteOf data 0), stepOfByte (byteOf data 1), stepOfByte (byteOf data 2),
                  stepOfByte (byteOf data 3)] } }

/-- A read of ADC_PSSI gives 0 (R106). -/
def readAdcPssi (_s : State) : Word := 0#32

/-- A write of ADC_PSSI: the processor trigger (R107). -/
def writeAdcPssi (data : Word) (s : State) : Except Fault State :=
  .ok (if data.getLsbD 0 then latchTrigger Config.trigProcessor s else s)

/-- The value of ADC_RIS (R108). -/
def readAdcRis (s : State) : Word := s.adc.ris.setWidth 32

/-- A write of ADC_RIS is ignored (R109). -/
def writeAdcRis (_data : Word) (s : State) : Except Fault State := .ok s

/-- The value of ADC_IM (R110). -/
def readAdcIm (s : State) : Word := s.adc.im.setWidth 32

/-- A write of ADC_IM (R111). -/
def writeAdcIm (data : Word) (s : State) : Except Fault State :=
  .ok { s with adc := { s.adc with im := data.setWidth 3 } }

/-- The value of ADC_ISC: the masked status (R112). -/
def readAdcIsc (s : State) : Word := (maskedRis s).setWidth 32

/-- A write of ADC_ISC clears the flags written as 1 (R113). -/
def writeAdcIsc (data : Word) (s : State) : Except Fault State := .ok (clearRis (data.setWidth 3) s)

/-- A read of ADC_FIFO removes the oldest result; an empty FIFO sets UV and gives any value (R114). -/
def readAdcFifo (s : State) : Word × State :=
  match s.seq.fifo with
  | v :: rest => (v.setWidth 32, { s with seq := { s.seq with fifo := rest } })
  | [] => drawWord (setRis bitUV s)

/-- A write of ADC_FIFO is ignored (R115). -/
def writeAdcFifo (_data : Word) (s : State) : Except Fault State := .ok s

/-- The value of ADC_FSTAT (R116). -/
def readAdcFstat (s : State) : Word :=
  let n := s.seq.fifo.length
  BitVec.ofNat 32 n ||| (if n = 0 then 1#32 <<< 8 else 0#32) ||| (if n = Config.fifoDepth then 1#32 <<< 12 else 0#32) |||
    ((BitVec.ofBool s.seq.busy).setWidth 32 <<< 16) ||| ((BitVec.ofBool s.seq.pending).setWidth 32 <<< 17)

/-- A write of ADC_FSTAT is ignored (R117). -/
def writeAdcFstat (_data : Word) (s : State) : Except Fault State := .ok s

/-! ### The meanings -/

/-- RD.ADC_CTL (R102). -/
def execRdAdcCtl (s : State) : Host.Outcome State Fault Refusal := hostReads (readAdcCtl s, s)

/-- WR.ADC_CTL (R103). -/
def execWrAdcCtl (data : Word) (s : State) : Host.Outcome State Fault Refusal := outcomeOf (writeAdcCtl data s)

/-- RD.ADC_STEPCFG (R104). -/
def execRdAdcStepcfg (s : State) : Host.Outcome State Fault Refusal := hostReads (readAdcStepcfg s, s)

/-- WR.ADC_STEPCFG (R105). -/
def execWrAdcStepcfg (data : Word) (s : State) : Host.Outcome State Fault Refusal := outcomeOf (writeAdcStepcfg data s)

/-- RD.ADC_PSSI (R106). -/
def execRdAdcPssi (s : State) : Host.Outcome State Fault Refusal := hostReads (readAdcPssi s, s)

/-- WR.ADC_PSSI (R107). -/
def execWrAdcPssi (data : Word) (s : State) : Host.Outcome State Fault Refusal := outcomeOf (writeAdcPssi data s)

/-- RD.ADC_RIS (R108). -/
def execRdAdcRis (s : State) : Host.Outcome State Fault Refusal := hostReads (readAdcRis s, s)

/-- WR.ADC_RIS (R109). -/
def execWrAdcRis (data : Word) (s : State) : Host.Outcome State Fault Refusal := outcomeOf (writeAdcRis data s)

/-- RD.ADC_IM (R110). -/
def execRdAdcIm (s : State) : Host.Outcome State Fault Refusal := hostReads (readAdcIm s, s)

/-- WR.ADC_IM (R111). -/
def execWrAdcIm (data : Word) (s : State) : Host.Outcome State Fault Refusal := outcomeOf (writeAdcIm data s)

/-- RD.ADC_ISC (R112). -/
def execRdAdcIsc (s : State) : Host.Outcome State Fault Refusal := hostReads (readAdcIsc s, s)

/-- WR.ADC_ISC (R113). -/
def execWrAdcIsc (data : Word) (s : State) : Host.Outcome State Fault Refusal := outcomeOf (writeAdcIsc data s)

/-- RD.ADC_FIFO (R114). -/
def execRdAdcFifo (s : State) : Host.Outcome State Fault Refusal := hostReads (readAdcFifo s)

/-- WR.ADC_FIFO (R115). -/
def execWrAdcFifo (data : Word) (s : State) : Host.Outcome State Fault Refusal := outcomeOf (writeAdcFifo data s)

/-- RD.ADC_FSTAT (R116). -/
def execRdAdcFstat (s : State) : Host.Outcome State Fault Refusal := hostReads (readAdcFstat s, s)

/-- WR.ADC_FSTAT (R117). -/
def execWrAdcFstat (data : Word) (s : State) : Host.Outcome State Fault Refusal := outcomeOf (writeAdcFstat data s)

/-! ### The steps -/

/-- Some step at or after k carries END (R118). -/
def hasEndFrom (a : Adc) (k : Nat) : Bool :=
  (k ≤ 0 && a.steps[0].last) || (k ≤ 1 && a.steps[1].last) || (k ≤ 2 && a.steps[2].last) || (k ≤ 3 && a.steps[3].last)

/-- SEQ.START is enabled (R118). -/
def startEnabled (s : State) : Bool :=
  s.adc.seqEn && !s.seq.busy && (s.seq.pending || s.adc.trig == Config.trigAlways)

/-- SEQ.START (R118). -/
def seqStart (s : State) : Except Fault State :=
  if !hasEndFrom s.adc 0 then raise .F04
  else .ok { s with seq := { s.seq with pending := false, busy := true, step := 0 } }

/-- SEQ.CONV is enabled (R120). -/
def convEnabled (s : State) : Bool := s.seq.busy

/-- N, the raw conversions of one reported sample: 2^OVS (R71, R119). -/
def oversampleCount (s : State) : Nat := 2 ^ s.adc.ovs.toNat

/-- Avg(s_1 .. s_N) from the sum: the floor of the mean (R119). -/
def average (total n : Nat) : Sample := BitVec.ofNat 12 (total / n)

/-- Appends a result; a full FIFO discards it and sets OV (R120). -/
def pushResult (v : Sample) (s : State) : State :=
  if s.seq.fifo.length < Config.fifoDepth then { s with seq := { s.seq with fifo := s.seq.fifo ++ [v] } }
  else setRis bitOV s

/-- What IE does at the end of a step: INR, and with DMA_EN a request on channel ADC_DMA_CH (R120, R121). -/
def stepCompletes (s : State) : State :=
  let s1 := setRis bitINR s
  if s.adc.dmaEn then requestChans (chanBit Config.adcDmaCh) s1 else s1

/-- Where the sequence stands after step k: done after an END step, else at the next step (R120). -/
def nextStep (cfg : StepCfg) (s : State) : State :=
  if cfg.last then { s with seq := { s.seq with busy := false, step := 0 } }
  else { s with seq := { s.seq with step := s.seq.step + 1 } }

/-- SEQ.CONV (R120). -/
def seqConv (s : State) : State :=
  let cfg := s.adc.steps[s.seq.step]
  let n := oversampleCount s
  let (total, s1) := drawSum cfg.insel n s
  let s2 := pushResult (average total n) s1
  let s3 := if cfg.ie then stepCompletes s2 else s2
  nextStep cfg s3

/-- n conversion steps, one after another. -/
def seqConvs : Nat → State → State
  | 0, s => s
  | n + 1, s => seqConvs n (seqConv s)

end Sys2Proof.Machine
end

