-- ==== Sys2Proof/Machine/SgRegs.lean ====
section
/-! DEFINITION. The transfer engine's registers and the meanings of their transactions (spec/42_sg_engine.md R128 to R149). -/

namespace Sys2Proof.Machine

/-! ### Register values and writes, for the host and for the engine -/

/-- `chans` names a channel being served (the Fault(F08) tests of R135, R137, R139). -/
def namesActive (chans : Word) (s : State) : Bool := (chans &&& activeVector s.sge) != 0#32

/-- The value of SG_CFG (R128). -/
def readSgCfg (s : State) : Word := (BitVec.ofBool s.sge.masterEn).setWidth 32

/-- A write of SG_CFG (R129). -/
def writeSgCfg (data : Word) (s : State) : Except Fault State :=
  if !data.getLsbD 0 && activeVector s.sge != 0#32 then raise .F08
  else .ok { s with sge := { s.sge with masterEn := data.getLsbD 0 } }

/-- The value of SG_CTLBASE (R130). -/
def readSgCtlbase (s : State) : Word := s.sge.ctlBase

/-- A write of SG_CTLBASE drops the low 10 bits (R131). -/
def writeSgCtlbase (data : Word) (s : State) : Except Fault State :=
  if s.sge.enable != 0#32 then raise .F08
  else .ok { s with sge := { s.sge with ctlBase := data &&& 0xFFFFFC00#32 } }

/-- The value of SG_ENASET (R132). -/
def readSgEnaset (s : State) : Word := s.sge.enable

/-- A write of SG_ENASET (R133). -/
def writeSgEnaset (data : Word) (s : State) : Except Fault State :=
  .ok { s with sge := { s.sge with enable := s.sge.enable ||| data } }

/-- A read of SG_ENACLR gives 0 (R134). -/
def readSgEnaclr (_s : State) : Word := 0#32

/-- A write of SG_ENACLR disables channels and drops their latched requests (R135). -/
def writeSgEnaclr (data : Word) (s : State) : Except Fault State :=
  if namesActive data s then raise .F08
  else .ok { s with sge := { s.sge with enable := s.sge.enable &&& ~~~ data, req := s.sge.req &&& ~~~ data } }

/-- The value of SG_ALTSET (R136). -/
def readSgAltset (s : State) : Word := s.sge.altSel

/-- A write of SG_ALTSET (R137). -/
def writeSgAltset (data : Word) (s : State) : Except Fault State :=
  if namesActive data s then raise .F08
  else .ok { s with sge := { s.sge with altSel := s.sge.altSel ||| data } }

/-- A read of SG_ALTCLR gives 0 (R138). -/
def readSgAltclr (_s : State) : Word := 0#32

/-- A write of SG_ALTCLR (R139). -/
def writeSgAltclr (data : Word) (s : State) : Except Fault State :=
  if namesActive data s then raise .F08
  else .ok { s with sge := { s.sge with altSel := s.sge.altSel &&& ~~~ data } }

/-- A read of SG_SWREQ gives 0 (R140). -/
def readSgSwreq (_s : State) : Word := 0#32

/-- A write of SG_SWREQ requests every channel written 1 (R141, R150). -/
def writeSgSwreq (data : Word) (s : State) : Except Fault State := .ok (requestChans data s)

/-- The value of SG_ERRCLR: SG_ERR (R142). -/
def readSgErrclr (s : State) : Word := (BitVec.ofBool s.sge.err).setWidth 32

/-- A write of SG_ERRCLR clears SG_ERR by a 1 in bit 0 (R143). -/
def writeSgErrclr (data : Word) (s : State) : Except Fault State :=
  .ok (if data.getLsbD 0 then { s with sge := { s.sge with err := false } } else s)

/-- The value of SG_DONE (R144). -/
def readSgDone (s : State) : Word := s.sge.done

/-- A write of SG_DONE clears the bits written as 1 (R145). -/
def writeSgDone (data : Word) (s : State) : Except Fault State :=
  .ok { s with sge := { s.sge with done := s.sge.done &&& ~~~ data } }

/-- The value of SG_DONEIM (R146). -/
def readSgDoneim (s : State) : Word := s.sge.doneIm

/-- A write of SG_DONEIM (R147). -/
def writeSgDoneim (data : Word) (s : State) : Except Fault State :=
  .ok { s with sge := { s.sge with doneIm := data } }

/-- The value of SG_ACTIVE (R148). -/
def readSgActive (s : State) : Word := activeVector s.sge

/-- A write of SG_ACTIVE is ignored (R149). -/
def writeSgActive (_data : Word) (s : State) : Except Fault State := .ok s

/-! ### The meanings -/

/-- RD.SG_CFG (R128). -/
def execRdSgCfg (s : State) : Host.Outcome State Fault Refusal := hostReads (readSgCfg s, s)

/-- WR.SG_CFG (R129). -/
def execWrSgCfg (data : Word) (s : State) : Host.Outcome State Fault Refusal := outcomeOf (writeSgCfg data s)

/-- RD.SG_CTLBASE (R130). -/
def execRdSgCtlbase (s : State) : Host.Outcome State Fault Refusal := hostReads (readSgCtlbase s, s)

/-- WR.SG_CTLBASE (R131). -/
def execWrSgCtlbase (data : Word) (s : State) : Host.Outcome State Fault Refusal := outcomeOf (writeSgCtlbase data s)

/-- RD.SG_ENASET (R132). -/
def execRdSgEnaset (s : State) : Host.Outcome State Fault Refusal := hostReads (readSgEnaset s, s)

/-- WR.SG_ENASET (R133). -/
def execWrSgEnaset (data : Word) (s : State) : Host.Outcome State Fault Refusal := outcomeOf (writeSgEnaset data s)

/-- RD.SG_ENACLR (R134). -/
def execRdSgEnaclr (s : State) : Host.Outcome State Fault Refusal := hostReads (readSgEnaclr s, s)

/-- WR.SG_ENACLR (R135). -/
def execWrSgEnaclr (data : Word) (s : State) : Host.Outcome State Fault Refusal := outcomeOf (writeSgEnaclr data s)

/-- RD.SG_ALTSET (R136). -/
def execRdSgAltset (s : State) : Host.Outcome State Fault Refusal := hostReads (readSgAltset s, s)

/-- WR.SG_ALTSET (R137). -/
def execWrSgAltset (data : Word) (s : State) : Host.Outcome State Fault Refusal := outcomeOf (writeSgAltset data s)

/-- RD.SG_ALTCLR (R138). -/
def execRdSgAltclr (s : State) : Host.Outcome State Fault Refusal := hostReads (readSgAltclr s, s)

/-- WR.SG_ALTCLR (R139). -/
def execWrSgAltclr (data : Word) (s : State) : Host.Outcome State Fault Refusal := outcomeOf (writeSgAltclr data s)

/-- RD.SG_SWREQ (R140). -/
def execRdSgSwreq (s : State) : Host.Outcome State Fault Refusal := hostReads (readSgSwreq s, s)

/-- WR.SG_SWREQ (R141). -/
def execWrSgSwreq (data : Word) (s : State) : Host.Outcome State Fault Refusal := outcomeOf (writeSgSwreq data s)

/-- RD.SG_ERRCLR (R142). -/
def execRdSgErrclr (s : State) : Host.Outcome State Fault Refusal := hostReads (readSgErrclr s, s)

/-- WR.SG_ERRCLR (R143). -/
def execWrSgErrclr (data : Word) (s : State) : Host.Outcome State Fault Refusal := outcomeOf (writeSgErrclr data s)

/-- RD.SG_DONE (R144). -/
def execRdSgDone (s : State) : Host.Outcome State Fault Refusal := hostReads (readSgDone s, s)

/-- WR.SG_DONE (R145). -/
def execWrSgDone (data : Word) (s : State) : Host.Outcome State Fault Refusal := outcomeOf (writeSgDone data s)

/-- RD.SG_DONEIM (R146). -/
def execRdSgDoneim (s : State) : Host.Outcome State Fault Refusal := hostReads (readSgDoneim s, s)

/-- WR.SG_DONEIM (R147). -/
def execWrSgDoneim (data : Word) (s : State) : Host.Outcome State Fault Refusal := outcomeOf (writeSgDoneim data s)

/-- RD.SG_ACTIVE (R148). -/
def execRdSgActive (s : State) : Host.Outcome State Fault Refusal := hostReads (readSgActive s, s)

/-- WR.SG_ACTIVE (R149). -/
def execWrSgActive (data : Word) (s : State) : Host.Outcome State Fault Refusal := outcomeOf (writeSgActive data s)

end Sys2Proof.Machine
end

