-- ==== Sys2Proof/Machine/Bus.lean ====
section
/-! DEFINITION. The system bus as the SGE master sees it: the register window with its side effects, and the platform's
answers outside it (spec/20_memory.md R46, R47, R50, R56 to R58). -/

namespace Sys2Proof.Machine

/-- A read of a register: its value, and the state its side effect leaves; only ADC_FIFO has one (R55). -/
def regRead (r : Reg) (s : State) : Word × State :=
  match r with
  | .tmrCtl => (readTmrCtl s, s)
  | .tmrLoad => (readTmrLoad s, s)
  | .tmrValue => (readTmrValue s, s)
  | .adcCtl => (readAdcCtl s, s)
  | .adcStepcfg => (readAdcStepcfg s, s)
  | .adcPssi => (readAdcPssi s, s)
  | .adcRis => (readAdcRis s, s)
  | .adcIm => (readAdcIm s, s)
  | .adcIsc => (readAdcIsc s, s)
  | .adcFifo => readAdcFifo s
  | .adcFstat => (readAdcFstat s, s)
  | .sgCfg => (readSgCfg s, s)
  | .sgCtlbase => (readSgCtlbase s, s)
  | .sgEnaset => (readSgEnaset s, s)
  | .sgEnaclr => (readSgEnaclr s, s)
  | .sgAltset => (readSgAltset s, s)
  | .sgAltclr => (readSgAltclr s, s)
  | .sgSwreq => (readSgSwreq s, s)
  | .sgErrclr => (readSgErrclr s, s)
  | .sgDone => (readSgDone s, s)
  | .sgDoneim => (readSgDoneim s, s)
  | .sgActive => (readSgActive s, s)

/-- A write of a register, with the model fault its rule raises. -/
def regWrite (r : Reg) (data : Word) (s : State) : Except Fault State :=
  match r with
  | .tmrCtl => writeTmrCtl data s
  | .tmrLoad => writeTmrLoad data s
  | .tmrValue => writeTmrValue data s
  | .adcCtl => writeAdcCtl data s
  | .adcStepcfg => writeAdcStepcfg data s
  | .adcPssi => writeAdcPssi data s
  | .adcRis => writeAdcRis data s
  | .adcIm => writeAdcIm data s
  | .adcIsc => writeAdcIsc data s
  | .adcFifo => writeAdcFifo data s
  | .adcFstat => writeAdcFstat data s
  | .sgCfg => writeSgCfg data s
  | .sgCtlbase => writeSgCtlbase data s
  | .sgEnaset => writeSgEnaset data s
  | .sgEnaclr => writeSgEnaclr data s
  | .sgAltset => writeSgAltset data s
  | .sgAltclr => writeSgAltclr data s
  | .sgSwreq => writeSgSwreq data s
  | .sgErrclr => writeSgErrclr data s
  | .sgDone => writeSgDone data s
  | .sgDoneim => writeSgDoneim data s
  | .sgActive => writeSgActive data s

/-- The register an SGE access of the window reaches: a 4-byte access at an assigned offset; any other gets the error
response (R50, R57). -/
def windowReg (a : Word) (size : Size) : Option Reg :=
  if size = .word then regAt (a.setWidth 12) else none

/-- MemRead by the SGE master (R10): the value, or none on a bus error. -/
def sgeRead (s : State) (a : Word) (size : Size) : Option Word × State :=
  if inWindow s a then
    match windowReg a size with
    | some r => let (v, s1) := regRead r s; (some v, s1)
    | none => (none, s)
  else
    let (ok, s1) := drawResponse a size .read s
    (if ok then some (memRead s1.mem a size) else none, s1)

/-- MemWrite by the SGE master (R10): whether the bus answered ok; a refused write stores nothing. -/
def sgeWrite (s : State) (a : Word) (size : Size) (v : Word) : Except Fault (Bool × State) :=
  if inWindow s a then
    match windowReg a size with
    | some r => (regWrite r v s).map fun s1 => (true, s1)
    | none => .ok (false, s)
  else
    let (ok, s1) := drawResponse a size .write s
    .ok (ok, if ok then { s1 with mem := memWrite s1.mem a size v } else s1)

/-- BUSERR for the host: a register access with the error response raises Fault(F10) (R57, R198). -/
def execBusErr (_width : Nat) (_tw : TxnWord) (_data : Word) (_s : State) : Host.Outcome State Fault Refusal :=
  outcomeOf (raise .F10)

end Sys2Proof.Machine
end

