-- ==== Sys2Proof/Machine/Operands.lean ====
section
/-! DEFINITION. The operands of a control word: sizes, increments, counts, element addresses, structure addresses, the
checks on a control word and its write-back (spec/30_encoding.md R75 to R77, R79; spec/42_sg_engine.md R153, R159). -/

namespace Sys2Proof.Machine

/-- PRI(c) (R79). -/
def priAddr (s : State) (c : Chan) : Word := s.sge.ctlBase + BitVec.ofNat 32 (16 * c.val)

/-- ALT(c) (R79). -/
def altAddr (s : State) (c : Chan) : Word := s.sge.ctlBase + 0x200#32 + BitVec.ofNat 32 (16 * c.val)

/-- The selected structure of channel c (R33, R152). -/
def structAddr (s : State) (c : Chan) : Word :=
  if hasChan s.sge.altSel c then altAddr s c else priAddr s c

/-- The element size a SRCSIZE or DSTSIZE code stands for (R74, R75); code 3 is refused by checkCtl before it is used. -/
def sizeOfCode (code : BitVec 2) : Size :=
  match code.toNat with
  | 0 => .byte
  | 1 => .half
  | _ => .word

/-- The increment in bytes of a SRCINC or DSTINC code: 2^code, and 0 for code 3 (R75). -/
def incOfCode (code : BitVec 2) : Word :=
  match code.toNat with
  | 0 => 1#32
  | 1 => 2#32
  | 2 => 4#32
  | _ => 0#32

/-- R, the remaining count: XFERSIZE + 1 (R75). -/
def remaining (f : CtlFields) : Nat := f.xferSize.toNat + 1

/-- The burst of BASIC mode: 2^ARBSIZE elements (R74, R163). -/
def burst (f : CtlFields) : Nat := 2 ^ f.arbSize.toNat

/-- srcA, the address of the next source element (R75). -/
def srcAddr (f : CtlFields) (srcEnd : Word) : Word :=
  srcEnd - BitVec.ofNat 32 (remaining f - 1) * incOfCode f.srcInc

/-- k of R75: how many destination increments the next element lies before DST_END. -/
def dstSteps (m : XferMode) (f : CtlFields) (isAlt : Bool) : Nat :=
  if isAlt = false ∧ m = .memSg then (remaining f - 1) % 4 else remaining f - 1

/-- dstA, the address of the next destination element (R75). -/
def dstAddr (m : XferMode) (f : CtlFields) (dstEnd : Word) (isAlt : Bool) : Word :=
  dstEnd - BitVec.ofNat 32 (dstSteps m f isAlt) * incOfCode f.dstInc

/-- An address is a multiple of an access size (R51). -/
def isAligned (a : Word) (size : Size) : Bool := a.toNat % sizeBytes size == 0

/-- The mode stands where R76 allows it (the Fault(F05) lines of R153). -/
def modeLegal (m : XferMode) (isAlt chain : Bool) : Bool :=
  match m with
  | .rsvd3 => false
  | .rsvd6 => false
  | .rsvd7 => false
  | .memSg => !isAlt
  | .altSg => isAlt && chain
  | .stop => true
  | .basic => true
  | .auto => true

/-- An increment code fits a size code: none, or at least the size (R77). -/
def incFits (inc size : BitVec 2) : Bool := inc == 3#2 || size.ule inc

/-- The field constraints of R77 (the Fault(F06) lines of R153). -/
def fieldsLegal (m : XferMode) (f : CtlFields) : Bool :=
  f.srcSize != 3#2 && f.dstSize != 3#2 && f.srcSize == f.dstSize &&
  incFits f.srcInc f.srcSize && incFits f.dstInc f.dstSize &&
  f.rsvHi == 0#6 && f.rsvLo == 0#1 && decide (f.arbSize.toNat ≤ 10) &&
  (m != .memSg || (f.srcSize == 2#2 && f.srcInc == 2#2 && f.dstInc == 2#2))

/-- A MEM_SG run starts with whole tasks only: a count that is a multiple of 4 (R77, the Fault(F07) line of R153). -/
def countLegal (m : XferMode) (f : CtlFields) : Bool := m != .memSg || remaining f % 4 == 0

/-- CheckCtl (R153), for a mode other than STOP: the fault it raises, or none. -/
def checkCtl (m : XferMode) (f : CtlFields) (isAlt chain atAccept : Bool) : Except Fault Unit :=
  if !modeLegal m isAlt chain then raise .F05
  else if !fieldsLegal m f then raise .F06
  else if atAccept && !countLegal m f then raise .F07
  else .ok ()

/-- WriteBack(ctl, R) (R159): one element fewer, or STOP when the last one moved; every other bit is kept. -/
def writeBack (m : XferMode) (f : CtlFields) : Word :=
  if remaining f > 1 then ctlWord m { f with xferSize := BitVec.ofNat 10 (remaining f - 2) }
  else ctlWord .stop { f with xferSize := 0#10 }

end Sys2Proof.Machine
end

