-- ==== Sys2Proof/Machine/Engine.lean ====
section
/-! DEFINITION. SGE: arbitration, the fetch of a control word, and what each transfer mode does at an accept and at an
element step (spec/42_sg_engine.md R150 to R169). -/

namespace Sys2Proof.Machine

/-! ### Arbitration (R151) -/

/-- SG.ACCEPT(c) is enabled: a request is latched on an enabled channel and no channel is served. -/
def acceptEnabled (c : Chan) (s : State) : Bool :=
  s.sge.masterEn && hasChan s.sge.enable c && hasChan s.sge.req c && activeVector s.sge == 0#32

/-- SG.ELEM(c) is enabled: channel c is served. -/
def elemEnabled (c : Chan) (s : State) : Bool := s.sge.rs[c].isActive

/-! ### Ends of a run -/

/-- StructAbort(c) (R158). -/
def structAbort (c : Chan) (s : State) : State :=
  setRun c .idle (selectPrimary c (disableChan c (setErr s)))

/-- Complete(c) (R161): the run ends with SG_DONE, and the channel stays enabled only if its primary's control word is not
STOP. When that word's read gets a bus error, StructAbort(c) follows and no SG_DONE is set (R158, K30), though R161's
pseudocode sets it before the read: log entry 21 (DEDUCED). -/
def complete (c : Chan) (s : State) : State :=
  let s1 := selectPrimary c (setRun c .idle s)
  match sgeRead s1 (priAddr s1 c + 8#32) .word with
  | (none, s2) => structAbort c s2
  | (some p, s2) => if ctlMode p = .stop then disableChan c (setDone c s2) else setDone c s2

/-! ### The fetch of a control word -/

/-- The fetch of SG.ACCEPT(c): CTL of the selected structure (R152). -/
def fetchAccept (c : Chan) (s : State) : Option Word × State :=
  match sgeRead s (structAddr s c + 8#32) .word with
  | (none, s1) => (none, s1)
  | (some ctl, s1) => (some ctl, { s1 with latch := { chan := c, srcEnd := 0#32, dstEnd := 0#32 } })

/-- The fetch of SG.ELEM(c): the three used words of the selected structure, all read in order (R154, R155). -/
def fetchElem (c : Chan) (s : State) : Option Word × State :=
  let base := structAddr s c
  let (w0, s1) := sgeRead s base .word
  let (w1, s2) := sgeRead s1 (base + 4#32) .word
  let (w2, s3) := sgeRead s2 (base + 8#32) .word
  match w0, w1, w2 with
  | some srcEnd, some dstEnd, some ctl => (some ctl, { s3 with latch := { chan := c, srcEnd := srcEnd, dstEnd := dstEnd } })
  | _, _, _ => (none, s3)

/-! ### SG.ACCEPT (R152) -/

/-- A run starts in mode `m` (R152): BASIC is limited to its burst, the others run to the structure's end; a MEM_SG
primary starts a chain run. -/
def startRun (c : Chan) (m : XferMode) (f : CtlFields) (chain : Bool) (s : State) : State :=
  if m = .basic ∧ chain = false then setRun c (.active (.elems (burst f)) false) s
  else setRun c (.active .inf chain) s

/-- SG.ACCEPT on the latched channel, with the fetched control word (R152). -/
def sgAccept (m : XferMode) (f : CtlFields) (s : State) : Except Fault State :=
  let c := s.latch.chan
  let s1 := clearRequest c s
  let isAlt := hasChan s.sge.altSel c
  let chain := !isAlt && m == .memSg
  if m = .stop then .ok (disableChan c s1)
  else
    match checkCtl m f isAlt chain true with
    | .error e => .error e
    | .ok _ => .ok (startRun c m f chain s1)

/-! ### SG.ELEM (R155) -/

/-- Advance(c, isAlt, mode, R, b, chain) (R160). -/
def advance (c : Chan) (isAlt : Bool) (m : XferMode) (f : CtlFields) (b : Budget) (chain : Bool) (s : State) : State :=
  if isAlt = false ∧ m = .memSg then
    if (remaining f - 1) % 4 = 0 then selectAlternate c s else s
  else if remaining f > 1 then
    match b with
    | .inf => s
    | .elems n => if n = 1 then setRun c .idle s else setRun c (.active (.elems (n - 1)) chain) s
  else if chain = true ∧ isAlt = true ∧ m = .altSg then selectPrimary c s
  else complete c s

/-- The element's read and write (R155): a bus error sets SG_ERR and loses the element, and the step goes on (R157). -/
def moveElement (src dst : Word) (size : Size) (s : State) : Except Fault State :=
  match sgeRead s src size with
  | (none, s1) => .ok (setErr s1)
  | (some v, s1) =>
    match sgeWrite s1 dst size v with
    | .error e => .error e
    | .ok (true, s2) => .ok s2
    | .ok (false, s2) => .ok (setErr s2)

/-- SG.ELEM on the latched channel with run state ACTIVE(b, chain), with the fetched control word (R155). -/
def sgElement (m : XferMode) (f : CtlFields) (b : Budget) (chain : Bool) (s : State) : Except Fault State :=
  let c := s.latch.chan
  let isAlt := hasChan s.sge.altSel c
  let base := structAddr s c
  if m = .stop then .ok (complete c s)
  else
    match checkCtl m f isAlt chain false with
    | .error e => .error e
    | .ok _ =>
      let size := sizeOfCode f.srcSize
      let src := srcAddr f s.latch.srcEnd
      let dst := dstAddr m f s.latch.dstEnd isAlt
      if !isAligned src size || !isAligned dst size then raise .F09
      else
        match moveElement src dst size s with
        | .error e => .error e
        | .ok s1 =>
          match sgeWrite s1 (base + 8#32) .word (writeBack m f) with
          | .error e => .error e
          | .ok (false, s2) => .ok (structAbort c s2)
          | .ok (true, s2) => .ok (advance c isAlt m f b chain s2)

/-- The engine's step on a control word: an accept when the latched channel is idle, an element when it is served (R151). -/
def sgServe (m : XferMode) (f : CtlFields) (s : State) : Except Fault State :=
  match s.sge.rs[s.latch.chan] with
  | .idle => sgAccept m f s
  | .active b chain => sgElement m f b chain s

/-! ### The meanings -/

/-- SGCTL.STOP (R162). -/
def execSgctlStop (f : CtlFields) (s : State) : Host.Outcome State Fault Refusal := outcomeOf (sgServe .stop f s)

/-- SGCTL.BASIC (R163). -/
def execSgctlBasic (f : CtlFields) (s : State) : Host.Outcome State Fault Refusal := outcomeOf (sgServe .basic f s)

/-- SGCTL.AUTO (R164). -/
def execSgctlAuto (f : CtlFields) (s : State) : Host.Outcome State Fault Refusal := outcomeOf (sgServe .auto f s)

/-- SGCTL.RSVD3 (R165). -/
def execSgctlRsvd3 (f : CtlFields) (s : State) : Host.Outcome State Fault Refusal := outcomeOf (sgServe .rsvd3 f s)

/-- SGCTL.MEM_SG (R166). -/
def execSgctlMemSg (f : CtlFields) (s : State) : Host.Outcome State Fault Refusal := outcomeOf (sgServe .memSg f s)

/-- SGCTL.ALT_SG (R167). -/
def execSgctlAltSg (f : CtlFields) (s : State) : Host.Outcome State Fault Refusal := outcomeOf (sgServe .altSg f s)

/-- SGCTL.RSVD6 (R168). -/
def execSgctlRsvd6 (f : CtlFields) (s : State) : Host.Outcome State Fault Refusal := outcomeOf (sgServe .rsvd6 f s)

/-- SGCTL.RSVD7 (R169). -/
def execSgctlRsvd7 (f : CtlFields) (s : State) : Host.Outcome State Fault Refusal := outcomeOf (sgServe .rsvd7 f s)

end Sys2Proof.Machine
end

