-- ==== Sys2Proof/Machine/Dispatch.lean ====
section
/-! DEFINITION. The dispatch: one arm per instruction, each one call of its meaning. -/

namespace Sys2Proof.Machine

def exec (i : Instr) (s : State) : Host.Outcome State Fault Refusal :=
  match i with
  | .rdTmrCtl => Sys2Proof.Machine.execRdTmrCtl s
  | .wrTmrCtl data => Sys2Proof.Machine.execWrTmrCtl data s
  | .rdTmrLoad => Sys2Proof.Machine.execRdTmrLoad s
  | .wrTmrLoad data => Sys2Proof.Machine.execWrTmrLoad data s
  | .rdTmrValue => Sys2Proof.Machine.execRdTmrValue s
  | .wrTmrValue data => Sys2Proof.Machine.execWrTmrValue data s
  | .rdAdcCtl => Sys2Proof.Machine.execRdAdcCtl s
  | .wrAdcCtl data => Sys2Proof.Machine.execWrAdcCtl data s
  | .rdAdcStepcfg => Sys2Proof.Machine.execRdAdcStepcfg s
  | .wrAdcStepcfg data => Sys2Proof.Machine.execWrAdcStepcfg data s
  | .rdAdcPssi => Sys2Proof.Machine.execRdAdcPssi s
  | .wrAdcPssi data => Sys2Proof.Machine.execWrAdcPssi data s
  | .rdAdcRis => Sys2Proof.Machine.execRdAdcRis s
  | .wrAdcRis data => Sys2Proof.Machine.execWrAdcRis data s
  | .rdAdcIm => Sys2Proof.Machine.execRdAdcIm s
  | .wrAdcIm data => Sys2Proof.Machine.execWrAdcIm data s
  | .rdAdcIsc => Sys2Proof.Machine.execRdAdcIsc s
  | .wrAdcIsc data => Sys2Proof.Machine.execWrAdcIsc data s
  | .rdAdcFifo => Sys2Proof.Machine.execRdAdcFifo s
  | .wrAdcFifo data => Sys2Proof.Machine.execWrAdcFifo data s
  | .rdAdcFstat => Sys2Proof.Machine.execRdAdcFstat s
  | .wrAdcFstat data => Sys2Proof.Machine.execWrAdcFstat data s
  | .rdSgCfg => Sys2Proof.Machine.execRdSgCfg s
  | .wrSgCfg data => Sys2Proof.Machine.execWrSgCfg data s
  | .rdSgCtlbase => Sys2Proof.Machine.execRdSgCtlbase s
  | .wrSgCtlbase data => Sys2Proof.Machine.execWrSgCtlbase data s
  | .rdSgEnaset => Sys2Proof.Machine.execRdSgEnaset s
  | .wrSgEnaset data => Sys2Proof.Machine.execWrSgEnaset data s
  | .rdSgEnaclr => Sys2Proof.Machine.execRdSgEnaclr s
  | .wrSgEnaclr data => Sys2Proof.Machine.execWrSgEnaclr data s
  | .rdSgAltset => Sys2Proof.Machine.execRdSgAltset s
  | .wrSgAltset data => Sys2Proof.Machine.execWrSgAltset data s
  | .rdSgAltclr => Sys2Proof.Machine.execRdSgAltclr s
  | .wrSgAltclr data => Sys2Proof.Machine.execWrSgAltclr data s
  | .rdSgSwreq => Sys2Proof.Machine.execRdSgSwreq s
  | .wrSgSwreq data => Sys2Proof.Machine.execWrSgSwreq data s
  | .rdSgErrclr => Sys2Proof.Machine.execRdSgErrclr s
  | .wrSgErrclr data => Sys2Proof.Machine.execWrSgErrclr data s
  | .rdSgDone => Sys2Proof.Machine.execRdSgDone s
  | .wrSgDone data => Sys2Proof.Machine.execWrSgDone data s
  | .rdSgDoneim => Sys2Proof.Machine.execRdSgDoneim s
  | .wrSgDoneim data => Sys2Proof.Machine.execWrSgDoneim data s
  | .rdSgActive => Sys2Proof.Machine.execRdSgActive s
  | .wrSgActive data => Sys2Proof.Machine.execWrSgActive data s
  | .busErr width tw data => Sys2Proof.Machine.execBusErr width tw data s
  | .sgctlStop f => Sys2Proof.Machine.execSgctlStop f s
  | .sgctlBasic f => Sys2Proof.Machine.execSgctlBasic f s
  | .sgctlAuto f => Sys2Proof.Machine.execSgctlAuto f s
  | .sgctlRsvd3 f => Sys2Proof.Machine.execSgctlRsvd3 f s
  | .sgctlMemSg f => Sys2Proof.Machine.execSgctlMemSg f s
  | .sgctlAltSg f => Sys2Proof.Machine.execSgctlAltSg f s
  | .sgctlRsvd6 f => Sys2Proof.Machine.execSgctlRsvd6 f s
  | .sgctlRsvd7 f => Sys2Proof.Machine.execSgctlRsvd7 f s

end Sys2Proof.Machine
end

