-- ==== Sys2Proof/Machine/Fetch.lean ====
section
/-! DEFINITION. How an operation reaches an instruction: the host's transaction bytes, the engine's fetched control word,
and the agent steps no bit pattern selects (spec/30_encoding.md R67, R82; spec/00_scope.md R7). -/

namespace Sys2Proof.Machine

/-- Decodes the bytes and runs the instruction they are. -/
def runBytes (src : Source) (bytes : List Byte) (s : State) : Host.Outcome State Fault Refusal :=
  match decode src bytes with
  | .ok (i, _) => exec i s
  | .error e => .refused (.undecodable e)

/-- A register transaction of the host (R68). -/
def hostTxn (width : Nat) (tw : TxnWord) (data : Word) (s : State) : Host.Outcome State Fault Refusal :=
  runBytes (.regTxn width) (txnBytes tw data) s

/-- Forgets the words of the SGE step (R65: none is kept between steps). -/
def dropLatch (s : State) : State := { s with latch := SgLatch.empty }

/-- The same outcome with the latch dropped from its next state. -/
def endSgStep (o : Host.Outcome State Fault Refusal) : Host.Outcome State Fault Refusal :=
  match o with
  | .next s => .next (dropLatch s)
  | .fault f => .fault f
  | .refused r => .refused r

/-- SG.ACCEPT(c) (R152): the fetched control word is decoded and run; a structure bus error aborts (R158). -/
def acceptStep (c : Chan) (s : State) : Host.Outcome State Fault Refusal :=
  match fetchAccept c s with
  | (none, s1) => .next (structAbort c (clearRequest c s1))
  | (some ctl, s1) => endSgStep (runBytes .sgCtl (wordBytes ctl) s1)

/-- SG.ELEM(c) (R155): the fetched control word is decoded and run; a structure bus error aborts (R158). -/
def elemStep (c : Chan) (s : State) : Host.Outcome State Fault Refusal :=
  match fetchElem c s with
  | (none, s1) => .next (structAbort c s1)
  | (some ctl, s1) => endSgStep (runBytes .sgCtl (wordBytes ctl) s1)

/-- The host reads one word of system memory; in the register window that is a register read (R46, R83). -/
def hostMemRead (a : Word) (s : State) : Host.Outcome State Fault Refusal :=
  if inWindow s a then hostTxn 4 (a.setWidth 12 |>.setWidth 13) 0#32 s
  else hostReads (memRead s.mem a .word, s)

/-- The host writes one word of system memory; in the register window that is a register write (R46, R83). -/
def hostMemWrite (a v : Word) (s : State) : Host.Outcome State Fault Refusal :=
  if inWindow s a then hostTxn 4 (0x1000#13 ||| (a.setWidth 12).setWidth 13) v s
  else .next { s with mem := memWrite s.mem a .word v }

/-- One agent's step. An agent step that is not enabled does not occur, and the state stays as it is (R7). -/
def perform (op : Op) (s : State) : Host.Outcome State Fault Refusal :=
  match op with
  | .reg width tw data => hostTxn width tw data s
  | .memRead a => hostMemRead a s
  | .memWrite a v => hostMemWrite a v s
  | .memSave a => hostMemWrite a s.rdata s
  | .tick => .next (if tickEnabled s then tmrTick s else s)
  | .seqStart => if startEnabled s then outcomeOf (seqStart s) else .next s
  | .seqConv => .next (if convEnabled s then seqConv s else s)
  | .sgAccept c => if acceptEnabled c s then acceptStep c s else .next s
  | .sgElem c => if elemEnabled c s then elemStep c s else .next s

/-- Puts an operation at the head of the script. -/
def scheduleOp (op : Op) (s : State) : State :=
  { s with env := { s.env with script := op :: s.env.script } }

/-- Puts answers at the head of BUS_RESP's list. -/
def scheduleResponses (oks : List Bool) (s : State) : State :=
  { s with env := { s.env with responses := oks ++ s.env.responses } }

/-- Makes a control word the one the engine fetches at the next accept, as channel 0's primary: the controller and the
channel enabled, a request latched, no channel served, the table outside the window and the bus answering the fetch. -/
def placeForAccept (ctl : Word) (s : State) : State :=
  let at0 := s.sge.ctlBase
  scheduleResponses [true] <| scheduleOp (.sgAccept 0)
    { s with
      mem := memWrite s.mem (at0 + 8#32) .word ctl
      blockPage := ~~~ at0.extractLsb' 12 20
      sge := { s.sge with masterEn := true, enable := setChan s.sge.enable 0, req := setChan s.sge.req 0,
                          altSel := clearChan s.sge.altSel 0, rs := Vector.replicate 32 .idle } }

/-- Makes a control word the one the engine fetches at the next element step, as channel 0's alternate in a chain run:
the only place where ALT_SG is legal (R76). The descriptor's pointers are 0, and the bus answers the step's accesses. -/
def placeForElem (ctl : Word) (s : State) : State :=
  let base := s.sge.ctlBase + 0x200#32
  let mem1 := memWrite (memWrite s.mem base .word 0#32) (base + 4#32) .word 0#32
  scheduleResponses (List.replicate 6 true) <| scheduleOp (.sgElem 0)
    { s with
      mem := memWrite mem1 (base + 8#32) .word ctl
      blockPage := ~~~ base.extractLsb' 12 20
      sge := { s.sge with masterEn := true, enable := setChan s.sge.enable 0, altSel := setChan s.sge.altSel 0,
                          rs := (Vector.replicate 32 RunState.idle).set 0 (.active .inf true) } }

/-- Places an opcode-table word where the next step fetches its instruction: a transaction word as the host's next
transaction (its DATA 0), a control word in channel 0's structure. The spec has no such placing, and a recorded model fault
is never cleared (R216): that the placing leaves none, so that a step can follow, is the model's choice, log entry 6
(DESIGN CHOICE). -/
def placeTableWord (nbits w : Nat) (s : State) : State :=
  let s0 := { s with fault := none }
  if nbits = 13 ∨ nbits = 16 then scheduleOp (.reg 4 (BitVec.ofNat 13 w) 0#32) s0
  else
    let ctl := BitVec.ofNat 32 w
    if ctlMode ctl = .altSg then placeForElem ctl s0 else placeForAccept ctl s0

end Sys2Proof.Machine
end

