-- ==== Sys2Proof/Machine/Step.lean ====
section
/-! DEFINITION. One step of the machine, and the placing of an instruction where the next step fetches. -/

namespace Sys2Proof.Machine

/-- One step: the next operation is performed; a machine with a recorded fault takes no further step (R196, R204). -/
def step (s : State) : Host.Outcome State Fault Refusal :=
  match s.fault with
  | some f => .fault f
  | none => perform (nextOp s).1 (nextOp s).2

/-- s with an opcode-table word placed where the next step fetches its instruction, and no fault recorded (log entry 6). -/
def State.withFetchWord (s : State) (nbits w : Nat) : State := placeTableWord nbits w s

end Sys2Proof.Machine
end

