-- ==== Sys2Proof/Safety.lean ====
section
/-! DEFINITION. What a safe run is, and the invariant of the block: the facts its rules promise of every state a run from
reset reaches (spec/60_exceptions.md R196; spec/10_state.md R18 to R41). -/

namespace Sys2Proof.Machine

/-- The state after a step with R196's record of a fault: a fault discards the step and is remembered; a refused step
changes nothing. -/
def afterStep (s : State) : State :=
  match step s with
  | .next t => t
  | .fault f => { s with fault := some f }
  | .refused _ => s

/-- A state whose next step raises no model fault. -/
def stepSafe (s : State) : Prop := ∀ f, step s ≠ .fault f

/-- The states runs from s pass through. -/
inductive Reaches : State → State → Prop where
  | refl (s : State) : Reaches s s
  | next {s t u : State} : Reaches s t → step t = .next u → Reaches s u

/-- The timer never runs periodic with a reload value of zero (R86). -/
def timerLoadOk (s : State) : Prop := ¬ (s.tmr.en = true ∧ s.tmr.periodic = true ∧ s.tmr.load = 0#32)

/-- ADC_CTL holds no reserved code (R21, R103). -/
def adcCodesOk (s : State) : Prop := s.adc.trig ≠ 3#2 ∧ s.adc.ovs ≠ 7#3

/-- The FIFO holds at most FIFO_DEPTH results (R27). -/
def fifoOk (s : State) : Prop := s.seq.fifo.length ≤ Config.fifoDepth

/-- The sequencer's position (R16, R120): a running sequence is enabled and has an END step at or after its position, and
an idle one stands at step 0. -/
def sequenceOk (s : State) : Prop :=
  (s.seq.busy = true → s.adc.seqEn = true ∧ hasEndFrom s.adc s.seq.step.val = true) ∧
  (s.seq.busy = false → s.seq.step = 0)

/-- A trigger is latched only for an enabled sequence whose source latches (R100, R103). -/
def pendingOk (s : State) : Prop :=
  s.seq.pending = true → s.adc.seqEn = true ∧ (s.adc.trig = Config.trigProcessor ∨ s.adc.trig = Config.trigTimer)

/-- The descriptor table is 1024-byte aligned (R30). -/
def tableOk (s : State) : Prop := s.sge.ctlBase.extractLsb' 0 10 = 0#10

/-- At most one channel is served (R41, R151). -/
def oneActive (s : State) : Prop :=
  ∀ c d : Chan, (s.sge.rs[c]).isActive = true → (s.sge.rs[d]).isActive = true → c = d

/-- A channel is served only while the controller and the channel are enabled (R29, R129, R135). -/
def activeEnabled (s : State) : Prop :=
  ∀ c : Chan, (s.sge.rs[c]).isActive = true → s.sge.masterEn = true ∧ hasChan s.sge.enable c = true

/-- A burst's budget is positive (R41). -/
def budgetOk (s : State) : Prop :=
  ∀ (c : Chan) (n : Nat) (chain : Bool), s.sge.rs[c] = .active (.elems n) chain → 0 < n

/-- Memory is in its canonical form. -/
def memOk (s : State) : Prop := memWf s.mem = true

/-- No word of a structure is kept between steps (R65). -/
def latchOk (s : State) : Prop := s.latch = SgLatch.empty

/-- The facts that hold throughout a step as well as between steps. -/
structure CoreInv (s : State) : Prop where
  timer : timerLoadOk s
  codes : adcCodesOk s
  fifo : fifoOk s
  sequence : sequenceOk s
  pending : pendingOk s
  table : tableOk s
  one : oneActive s
  enabled : activeEnabled s
  budget : budgetOk s
  memory : memOk s

/-- The invariant of the block, between steps. -/
structure Inv (s : State) : Prop where
  core : CoreInv s
  latch : latchOk s

end Sys2Proof.Machine
end

