-- ==== Sys2Proof/Certificates/Slice0/Obligations.lean ====
section
/-! DEFINITION. The statements for the provers. Each says what a rule of spec/ says of the machine; names in `Claims` only
abbreviate hypotheses that many of them share. -/

open Sys2Proof Sys2Proof.Machine

/-- A 4-byte access with transaction word `tw` and data `d` is the instruction i (R68, R69). -/
def Sys2Proof.Claims.TxnIs (tw : TxnWord) (d : Word) (i : Instr) : Prop :=
  decode (.regTxn 4) (txnBytes tw d) = .ok (i, [])

/-- The platform's answers to SGE accesses outside the window, one after another, and the state they leave (R58). -/
def Sys2Proof.Claims.busAnswers : List (Word × Size × AccessKind) → State → List Bool × State
  | [], s => ([], s)
  | (a, size, kind) :: rest, s =>
    let r := drawResponse a size kind s
    let q := Sys2Proof.Claims.busAnswers rest r.2
    (r.1 :: q.1, q.2)

/-- An address outside the register window (R46). -/
def Sys2Proof.Claims.Outside (s : State) (a : Word) : Prop := a.extractLsb' 12 20 ≠ s.blockPage

/-- The constraints of R77 on a control word's fields, but for the MEM_SG count. -/
def Sys2Proof.Claims.FieldsFit (m : XferMode) (f : CtlFields) : Prop :=
  f.srcSize ≠ 3#2 ∧ f.dstSize ≠ 3#2 ∧ f.srcSize = f.dstSize ∧
  (f.srcInc = 3#2 ∨ f.srcSize.toNat ≤ f.srcInc.toNat) ∧ (f.dstInc = 3#2 ∨ f.dstSize.toNat ≤ f.dstInc.toNat) ∧
  f.rsvHi = 0#6 ∧ f.rsvLo = 0#1 ∧ f.arbSize.toNat ≤ 10 ∧
  (m = .memSg → f.srcSize = 2#2 ∧ f.srcInc = 2#2 ∧ f.dstInc = 2#2)

/-- The mode stands where R76 allows it. -/
def Sys2Proof.Claims.ModeFits (m : XferMode) (isAlt chain : Bool) : Prop :=
  m ≠ .rsvd3 ∧ m ≠ .rsvd6 ∧ m ≠ .rsvd7 ∧ (m = .memSg → isAlt = false) ∧ (m = .altSg → isAlt = true ∧ chain = true)

/-- The run state after an element that was not the structure's last one (R160). -/
def Sys2Proof.Claims.afterElement (b : Budget) (chain : Bool) : RunState :=
  match b with
  | .inf => .active .inf chain
  | .elems n => if n = 1 then .idle else .active (.elems (n - 1)) chain

/-- The control word written back after an element (R159). -/
def Sys2Proof.Claims.countedDown (m : XferMode) (f : CtlFields) : Word :=
  if f.xferSize = 0#10 then ctlWord .stop { f with xferSize := 0#10 }
  else ctlWord m { f with xferSize := f.xferSize - 1#10 }

/-- What follows an element of a control word that stands where R76 allows it (R160): a task fetcher selects the alternate
at a task's end, a structure with more elements goes on, a finished ALT_SG task returns, any other ends the run. -/
def Sys2Proof.Claims.afterMove (m : XferMode) (f : CtlFields) (b : Budget) (chain : Bool) (c : Chan) (t : State) : State :=
  if m = .memSg then
    { t with sge := { t.sge with
        altSel := if f.xferSize.toNat % 4 = 0 then setChan t.sge.altSel c else t.sge.altSel } }
  else if 1 ≤ f.xferSize.toNat then
    { t with sge := { t.sge with
        rs := t.sge.rs.set c.val (Sys2Proof.Claims.afterElement b chain) c.isLt } }
  else if m = .altSg then { t with sge := { t.sge with altSel := clearChan t.sge.altSel c } }
  else complete c t

/-- StructAbort(c) on the engine's registers (R158). -/
def Sys2Proof.Claims.aborted (c : Chan) (g : Sge) : Sge :=
  { g with err := true, enable := clearChan g.enable c, altSel := clearChan g.altSel c,
           rs := g.rs.set c.val .idle c.isLt }

open Sys2Proof.Claims

/-! ### Encoding -/

/-- Decoding the bytes of any well-formed instruction gives it back, whatever bytes follow (R67 to R69, R74, R78). -/
def Obligations.EncodedInstructionDecodesBack : Prop :=
  ∀ i : Instr, wellFormed i = true → ∀ rest, decode (sourceOf i) (encode i ++ rest) = .ok (i, rest)

/-- Every transaction word is one row: the register's read or write row at an assigned offset, BUSERR otherwise; no two
registers share an offset (R69, R50). -/
def Obligations.TransactionWordMatchesOneRow : Prop :=
  (∀ r q : Reg, regOffset r = regOffset q → r = q) ∧
  ∀ (width : Nat) (tw : TxnWord) (d : Word) (rest : List Byte),
    (∀ r : Reg, width = 4 → txnOffset tw = regOffset r →
      decode (.regTxn width) (txnBytes tw d ++ rest) =
        .ok (if isWriteTxn tw then writeInstr r d else readInstr r, rest)) ∧
    ((width ≠ 4 ∨ ∀ r : Reg, txnOffset tw ≠ regOffset r) →
      decode (.regTxn width) (txnBytes tw d ++ rest) =
        .ok (.busErr width tw (if isWriteTxn tw then d else 0#32), rest))

/-- A control word is exactly its mode and its fields: splitting and assembling keeps every bit (R74, R78). -/
def Obligations.ControlWordKeepsEveryBit : Prop :=
  ∀ w : Word, ctlWord (ctlMode w) (ctlFields w) = w

/-- Words written out from the spec decode to the rows they stand for (R69, R78, V-DEC-1, V-DEC-3, V-DEC-4, V-DEC-6). -/
def Obligations.SpecWordsDecodeAsWritten : Prop :=
  decode (.regTxn 4) [0x00#8, 0x00#8] = .ok (.rdTmrCtl, []) ∧
  decode (.regTxn 4) [0x04#8, 0x10#8, 0xCF#8, 0x07#8, 0x00#8, 0x00#8] = .ok (.wrTmrLoad 0x7CF#32, []) ∧
  decode (.regTxn 4) [0x18#8, 0x01#8] = .ok (.rdAdcFifo, []) ∧
  decode (.regTxn 4) [0x18#8, 0x12#8, 0x08#8, 0x00#8, 0x00#8, 0x00#8] = .ok (.wrSgSwreq 0x8#32, []) ∧
  decode (.regTxn 4) [0x00#8, 0x03#8] = .ok (.busErr 4 0x300#13 0#32, []) ∧
  decode (.regTxn 4) [0x02#8, 0x01#8] = .ok (.busErr 4 0x102#13 0#32, []) ∧
  decode (.regTxn 1) [0x14#8, 0x11#8, 0x01#8, 0x00#8, 0x00#8, 0x00#8] = .ok (.busErr 1 0x1114#13 0x1#32, []) ∧
  decode .sgCtl [0x74#8, 0x80#8, 0x00#8, 0xAA#8] =
    .ok (.sgctlMemSg { dstInc := 2, dstSize := 2, srcInc := 2, srcSize := 2, rsvHi := 0, arbSize := 2, xferSize := 7,
                       rsvLo := 0 }, []) ∧
  decode .sgCtl [0x31#8, 0x40#8, 0x00#8, 0x00#8] =
    .ok (.sgctlBasic { dstInc := 0, dstSize := 0, srcInc := 0, srcSize := 0, rsvHi := 0, arbSize := 1, xferSize := 3,
                       rsvLo := 0 }, [])

/-! ### The step -/

/-- A step performs the script's next operation, which then has left the script, or a free one when the script is empty (R83,
R204; the script is the model's choice, log entry 1); a register transaction runs the instruction its bytes decode to
(R67). -/
def Obligations.StepPerformsTheNextOperation : Prop :=
  (∀ (s : State) (op : Op) (rest : List Op), s.fault = none → s.env.script = op :: rest →
    step s = perform op { s with env := { s.env with script := rest } }) ∧
  (∀ s : State, s.fault = none → s.env.script = [] →
    step s = perform (Config.freeOp s.env.draws) { s with env := { s.env with draws := s.env.draws + 1 } }) ∧
  ∀ (s t : State) (width : Nat) (tw : TxnWord) (d : Word) (i : Instr) (rest : List Byte),
    s.fault = none → nextOp s = (.reg width tw d, t) →
    decode (.regTxn width) (txnBytes tw d) = .ok (i, rest) → wellFormed i = true → step s = exec i t

/-- An enabled SG.ACCEPT or SG.ELEM runs the instruction its fetched control word decodes to, and forgets the fetched
words when it ends (R65, R152, R155). The structure's words, outside the window and answered ok, are fetched from the slot
SG_ALTSEL names (R79, R154): CTL at +8 for an accept; SRC_END at +0, DST_END at +4 and CTL at +8, in that order, for an
element. -/
def Obligations.StepRunsFetchedControlWord : Prop :=
  (∀ (s t u : State) (c : Chan) (ctl : Word) (i : Instr) (rest : List Byte),
    s.fault = none → decode .sgCtl (wordBytes ctl) = .ok (i, rest) →
    (nextOp s = (.sgAccept c, t) → acceptEnabled c t = true → fetchAccept c t = (some ctl, u) →
      step s = endSgStep (exec i u)) ∧
    (nextOp s = (.sgElem c, t) → elemEnabled c t = true → fetchElem c t = (some ctl, u) →
      step s = endSgStep (exec i u))) ∧
  ∀ (s u : State) (c : Chan),
    let base := s.sge.ctlBase + BitVec.ofNat 32 ((if hasChan s.sge.altSel c then 0x200 else 0) + 16 * c.val)
    Outside s (base + 8#32) →
    (busAnswers [(base + 8#32, .word, .read)] s = ([true], u) →
      fetchAccept c s = (some (memRead s.mem (base + 8#32) .word),
        { s with env := u.env, latch := { chan := c, srcEnd := 0#32, dstEnd := 0#32 } })) ∧
    (Outside s base → Outside s (base + 4#32) →
      busAnswers [(base, .word, .read), (base + 4#32, .word, .read), (base + 8#32, .word, .read)] s =
        ([true, true, true], u) →
      fetchElem c s = (some (memRead s.mem (base + 8#32) .word),
        { s with env := u.env, latch := { chan := c, srcEnd := memRead s.mem base .word,
                                          dstEnd := memRead s.mem (base + 4#32) .word } }))

/-- A step that raises a model fault changes nothing but the record of the fault, and no step follows it (R196). -/
def Obligations.FaultEndsTheRun : Prop :=
  (∀ (s : State) (f : Fault), step s = .fault f → afterStep s = { s with fault := some f } ∧
    step (afterStep s) = .fault f) ∧
  ∀ (s : State) (f : Fault), s.fault = some f → step s = .fault f

/-- An agent step that is not enabled, TMR.TICK, SEQ.START, SEQ.CONV, SG.ELEM or SG.ACCEPT, leaves the state as it is: the
model's choice, log entry 2. -/
def Obligations.DisabledStepChangesNothing : Prop :=
  ∀ (s : State) (c : Chan),
    (s.tmr.en = false → perform .tick s = .next s) ∧
    (¬ (s.adc.seqEn = true ∧ s.seq.busy = false ∧ (s.seq.pending = true ∨ s.adc.trig = 2#2)) →
      perform .seqStart s = .next s) ∧
    (s.seq.busy = false → perform .seqConv s = .next s) ∧
    (s.sge.rs[c] = .idle → perform (.sgElem c) s = .next s) ∧
    ((s.sge.masterEn = false ∨ hasChan s.sge.enable c = false ∨ hasChan s.sge.req c = false ∨
        ∃ d : Chan, s.sge.rs[d] ≠ .idle) → perform (.sgAccept c) s = .next s)

/-- No step is refused: every transaction word and every control word is an instruction with a meaning (R69, R76). -/
def Obligations.NoStepIsRefused : Prop :=
  ∀ (s : State) (r : Refusal), step s ≠ .refused r

/-! ### Reset -/

/-- The register values, the underflow of the first FIFO read, and the internal state after reset (R211, R212). -/
def Obligations.ResetValues : Prop :=
  (∀ r : Reg, r ≠ .adcFifo →
    exec (readInstr r) State.reset =
      .next { State.reset with rdata := if r = .adcFstat then 0x100#32 else 0#32 }) ∧
  (∃ t : State, exec .rdAdcFifo State.reset = .next t ∧ t.adc.ris = 4#3) ∧
  State.reset.seq.busy = false ∧ State.reset.seq.step = 0 ∧ State.reset.seq.pending = false ∧
  State.reset.seq.fifo = [] ∧ State.reset.sge.req = 0#32 ∧ ∀ c : Chan, State.reset.sge.rs[c] = .idle

/-- After reset the three lines are low and only the host's steps are enabled (R213). -/
def Obligations.ResetEnablesOnlyTheHost : Prop :=
  adcIrq State.reset = false ∧ sgIrq State.reset = false ∧ sgErrIrq State.reset = false ∧
  tickEnabled State.reset = false ∧ startEnabled State.reset = false ∧ convEnabled State.reset = false ∧
  ∀ c : Chan, acceptEnabled c State.reset = false ∧ elemEnabled c State.reset = false

/-- The system reset gives every register and internal state item its reset value and changes neither system memory nor
the model's record of a fault (R210, R214, R44). -/
def Obligations.ResetKeepsMemoryAndFault : Prop :=
  ∀ s : State, (applyReset s).tmr = State.reset.tmr ∧ (applyReset s).adc = State.reset.adc ∧
    (applyReset s).seq = State.reset.seq ∧ (applyReset s).sge = State.reset.sge ∧
    (applyReset s).fault = s.fault ∧ ∀ a : Word, memByte (applyReset s).mem a = memByte s.mem a

/-- The reset state has the invariant. -/
def Obligations.ResetHasTheInvariant : Prop := Inv State.reset

/-- Every step keeps the invariant: no zero reload in periodic mode (R86), no reserved code (R21), at most FIFO_DEPTH
results (R27), a running sequence has an END step ahead (R120), the table is aligned (R30), at most one channel is served,
and only while it and the controller are enabled (R41, R129, R135), and memory keeps its canonical form. -/
def Obligations.StepKeepsTheInvariant : Prop :=
  ∀ s t : State, Inv s → step s = .next t → Inv t

/-! ### The timer -/

/-- Reads of the timer's registers (R87, R89, R92). -/
def Obligations.TimerReadsReturnTheRegisters : Prop :=
  TxnIs 0x0000#13 0#32 .rdTmrCtl ∧ TxnIs 0x0004#13 0#32 .rdTmrLoad ∧ TxnIs 0x0008#13 0#32 .rdTmrValue ∧
  ∀ s : State,
    (∃ v : Word, exec .rdTmrCtl s = .next { s with rdata := v } ∧ v.getLsbD 0 = s.tmr.en ∧
      v.getLsbD 1 = s.tmr.periodic ∧ v.getLsbD 2 = s.tmr.trigEn ∧ ∀ i, 3 ≤ i → v.getLsbD i = false) ∧
    exec .rdTmrLoad s = .next { s with rdata := s.tmr.load } ∧
    exec .rdTmrValue s = .next { s with rdata := s.tmr.value }

/-- A write of TMR_CTL (R88): Fault(F01) exactly for a periodic start with LOAD = 0, the counter loaded on the 0-to-1 edge
of EN, and nothing else changed. -/
def Obligations.WriteTmrCtlLoadsOnEnable : Prop :=
  ∀ (s : State) (d : Word),
    TxnIs 0x1000#13 d (.wrTmrCtl d) ∧
    (d.getLsbD 0 = true ∧ d.getLsbD 1 = true ∧ s.tmr.load = 0#32 → exec (.wrTmrCtl d) s = .fault .F01) ∧
    (¬ (d.getLsbD 0 = true ∧ d.getLsbD 1 = true ∧ s.tmr.load = 0#32) →
      exec (.wrTmrCtl d) s = .next { s with tmr :=
        { en := d.getLsbD 0, periodic := d.getLsbD 1, trigEn := d.getLsbD 2, load := s.tmr.load,
          value := if s.tmr.en = false ∧ d.getLsbD 0 = true then s.tmr.load else s.tmr.value } })

/-- A write of TMR_LOAD (R90): Fault(F01) exactly for 0 while running periodic; the counter is not changed. -/
def Obligations.WriteTmrLoadKeepsTheCounter : Prop :=
  ∀ (s : State) (d : Word),
    TxnIs 0x1004#13 d (.wrTmrLoad d) ∧
    (s.tmr.en = true ∧ s.tmr.periodic = true ∧ d = 0#32 → exec (.wrTmrLoad d) s = .fault .F01) ∧
    (¬ (s.tmr.en = true ∧ s.tmr.periodic = true ∧ d = 0#32) →
      exec (.wrTmrLoad d) s = .next { s with tmr := { s.tmr with load := d } })

/-- TMR.TICK, enabled while EN = 1 (R94, R101): count down, or at 0 send the trigger and reload or stop. -/
def Obligations.TickCountsOrTimesOut : Prop :=
  (∀ s : State, tickEnabled s = true ↔ s.tmr.en = true) ∧
  ∀ s : State, s.tmr.en = true →
    (s.tmr.value ≠ 0#32 →
      perform .tick s = .next { s with tmr := { s.tmr with value := s.tmr.value - 1#32 } }) ∧
    (s.tmr.value = 0#32 →
      let pending := s.seq.pending || (s.tmr.trigEn && (s.adc.seqEn && decide (s.adc.trig = 1#2)))
      (s.tmr.periodic = true →
        perform .tick s = .next { s with
          tmr := { s.tmr with value := s.tmr.load }, seq := { s.seq with pending := pending } }) ∧
      (s.tmr.periodic = false →
        perform .tick s = .next { s with
          tmr := { s.tmr with en := false }, seq := { s.seq with pending := pending } }))

/-- The period law (R95): a periodic timer just started with LOAD = L, L at least 1, stays running and times out at the
ticks L+1, 2(L+1), 3(L+1), ... and at no other (tick k+1 times out when the count before it is 0). -/
def Obligations.PeriodicTimeoutsAreLoadPlusOneApart : Prop :=
  ∀ s : State, s.tmr.en = true → s.tmr.periodic = true → s.tmr.value = s.tmr.load → s.tmr.load ≠ 0#32 →
    ∀ k : Nat, (tmrTicks k s).tmr.en = true ∧
      ((tmrTicks k s).tmr.value = 0#32 ↔ (s.tmr.load.toNat + 1) ∣ (k + 1))

/-- The one-shot law (R98): a one-shot timer just started with LOAD = L runs L + 1 ticks, times out at the last of them
only, and stands stopped at 0 with no tick enabled. -/
def Obligations.OneShotTimesOutOnce : Prop :=
  ∀ s : State, s.tmr.en = true → s.tmr.periodic = false → s.tmr.value = s.tmr.load →
    (∀ k : Nat, k ≤ s.tmr.load.toNat → (tmrTicks k s).tmr.en = true ∧
      ((tmrTicks k s).tmr.value = 0#32 ↔ k = s.tmr.load.toNat)) ∧
    (tmrTicks (s.tmr.load.toNat + 1) s).tmr.value = 0#32 ∧
    tickEnabled (tmrTicks (s.tmr.load.toNat + 1) s) = false

/-! ### The sequencer's registers -/

/-- Reads of ADC_CTL and ADC_STEPCFG, field by field, reserved bits 0 (R102, R104). -/
def Obligations.ConfigurationReadsReturnTheFields : Prop :=
  TxnIs 0x0100#13 0#32 .rdAdcCtl ∧ TxnIs 0x0104#13 0#32 .rdAdcStepcfg ∧
  ∀ s : State,
    (∃ v : Word, exec .rdAdcCtl s = .next { s with rdata := v } ∧ v.getLsbD 0 = s.adc.seqEn ∧
      v.getLsbD 1 = s.adc.dmaEn ∧ v.getLsbD 2 = s.adc.vref ∧ v.getLsbD 3 = false ∧ v.extractLsb' 4 2 = s.adc.trig ∧
      v.extractLsb' 6 2 = 0#2 ∧ v.extractLsb' 8 3 = s.adc.ovs ∧ v.extractLsb' 11 21 = 0#21) ∧
    (∃ v : Word, exec .rdAdcStepcfg s = .next { s with rdata := v } ∧ ∀ k : StepIx,
      v.extractLsb' (8 * k.val) 4 = (s.adc.steps[k]).insel ∧ v.getLsbD (8 * k.val + 4) = (s.adc.steps[k]).last ∧
      v.getLsbD (8 * k.val + 5) = (s.adc.steps[k]).ie ∧ v.extractLsb' (8 * k.val + 6) 2 = 0#2)

/-- A write of ADC_CTL (R103): F02 for a reserved code, F03 for a write that keeps a running sequence enabled; otherwise
the fields are stored, a latched trigger is dropped and a running sequence is aborted, results and flags kept. -/
def Obligations.WriteAdcCtlConfiguresOrAborts : Prop :=
  ∀ (s : State) (d : Word),
    TxnIs 0x1100#13 d (.wrAdcCtl d) ∧
    (d.extractLsb' 4 2 = 3#2 ∨ d.extractLsb' 8 3 = 7#3 → exec (.wrAdcCtl d) s = .fault .F02) ∧
    (d.extractLsb' 4 2 ≠ 3#2 → d.extractLsb' 8 3 ≠ 7#3 → s.seq.busy = true → d.getLsbD 0 = true →
      exec (.wrAdcCtl d) s = .fault .F03) ∧
    (d.extractLsb' 4 2 ≠ 3#2 → d.extractLsb' 8 3 ≠ 7#3 → ¬ (s.seq.busy = true ∧ d.getLsbD 0 = true) →
      exec (.wrAdcCtl d) s = .next { s with
        seq := { busy := false, step := if s.seq.busy = true then 0 else s.seq.step, pending := false,
                 fifo := s.seq.fifo }
        adc := { s.adc with seqEn := d.getLsbD 0, dmaEn := d.getLsbD 1, vref := d.getLsbD 2,
                            trig := d.extractLsb' 4 2, ovs := d.extractLsb' 8 3 } })

/-- A write of ADC_STEPCFG (R105): F03 while a sequence runs; otherwise each step's byte is stored, its bits 7:6 dropped,
and a read gives the written value back without them. -/
def Obligations.WriteStepcfgStoresEveryStep : Prop :=
  ∀ (s : State) (d : Word),
    TxnIs 0x1104#13 d (.wrAdcStepcfg d) ∧
    (s.seq.busy = true → exec (.wrAdcStepcfg d) s = .fault .F03) ∧
    (s.seq.busy = false → ∃ steps : Vector StepCfg 4,
      exec (.wrAdcStepcfg d) s = .next { s with adc := { s.adc with steps := steps } } ∧
      (∀ k : StepIx, (steps[k]).insel = d.extractLsb' (8 * k.val) 4 ∧ (steps[k]).last = d.getLsbD (8 * k.val + 4) ∧
        (steps[k]).ie = d.getLsbD (8 * k.val + 5)) ∧
      exec .rdAdcStepcfg { s with adc := { s.adc with steps := steps } } =
        .next { s with adc := { s.adc with steps := steps }, rdata := d &&& 0x3F3F3F3F#32 })

/-- A write of ADC_PSSI latches a trigger exactly for a 1 in bit 0 of an enabled, processor-triggered sequence (R107). -/
def Obligations.ProcessorTriggerIsLatched : Prop :=
  ∀ (s : State) (d : Word),
    TxnIs 0x1108#13 d (.wrAdcPssi d) ∧
    exec (.wrAdcPssi d) s = .next { s with seq := { s.seq with
      pending := s.seq.pending || (d.getLsbD 0 && (s.adc.seqEn && decide (s.adc.trig = 0#2))) } }

/-- Reads of ADC_RIS, ADC_IM and ADC_ISC (R108, R110, R112). -/
def Obligations.StatusReadsReturnTheFlags : Prop :=
  TxnIs 0x010C#13 0#32 .rdAdcRis ∧ TxnIs 0x0110#13 0#32 .rdAdcIm ∧ TxnIs 0x0114#13 0#32 .rdAdcIsc ∧
  ∀ s : State, ∃ v w x : Word,
    exec .rdAdcRis s = .next { s with rdata := v } ∧ exec .rdAdcIm s = .next { s with rdata := w } ∧
    exec .rdAdcIsc s = .next { s with rdata := x } ∧
    ∀ i, v.getLsbD i = s.adc.ris.getLsbD i ∧ w.getLsbD i = s.adc.im.getLsbD i ∧
      x.getLsbD i = (s.adc.ris.getLsbD i && s.adc.im.getLsbD i)

/-- Writes of ADC_IM and ADC_ISC (R111, R113): the mask is bits 2:0 of the data; a 1 clears a flag, a 0 leaves it. -/
def Obligations.MaskAndClearWrites : Prop :=
  ∀ (s : State) (d : Word),
    TxnIs 0x1110#13 d (.wrAdcIm d) ∧ TxnIs 0x1114#13 d (.wrAdcIsc d) ∧
    exec (.wrAdcIm d) s = .next { s with adc := { s.adc with im := d.extractLsb' 0 3 } } ∧
    ∃ r : BitVec 3, exec (.wrAdcIsc d) s = .next { s with adc := { s.adc with ris := r } } ∧
      ∀ i, r.getLsbD i = (s.adc.ris.getLsbD i && !d.getLsbD i)

/-- A read of ADC_FIFO, by the host or by the engine (R114): the oldest entry is removed and returned; an empty FIFO sets
UV and returns any value, whatever the free input gives. -/
def Obligations.FifoReadPopsOrUnderflows : Prop :=
  TxnIs 0x0118#13 0#32 .rdAdcFifo ∧
  ∀ s : State,
    (∀ (v : Sample) (rest : List Sample), s.seq.fifo = v :: rest →
      exec .rdAdcFifo s = .next { s with seq := { s.seq with fifo := rest }, rdata := v.setWidth 32 } ∧
      sgeRead s (s.blockPage ++ 0x118#12) .word =
        (some (v.setWidth 32), { s with seq := { s.seq with fifo := rest } })) ∧
    (s.seq.fifo = [] → ∃ (x : Word) (e : Env),
      exec .rdAdcFifo s = .next { s with adc := { s.adc with ris := s.adc.ris ||| 4#3 }, env := e, rdata := x } ∧
      sgeRead s (s.blockPage ++ 0x118#12) .word =
        (some x, { s with adc := { s.adc with ris := s.adc.ris ||| 4#3 }, env := e }))

/-- A read of ADC_FSTAT (R116) with at most FIFO_DEPTH entries: count, empty, full, busy and pending, all other bits 0. -/
def Obligations.FifoStatusReadsTheFields : Prop :=
  TxnIs 0x011C#13 0#32 .rdAdcFstat ∧
  ∀ s : State, fifoOk s → ∃ v : Word,
    exec .rdAdcFstat s = .next { s with rdata := v } ∧ (v.extractLsb' 0 3).toNat = s.seq.fifo.length ∧
    v.getLsbD 8 = decide (s.seq.fifo = []) ∧ v.getLsbD 12 = decide (s.seq.fifo.length = 4) ∧
    v.getLsbD 16 = s.seq.busy ∧ v.getLsbD 17 = s.seq.pending ∧
    ∀ i, 3 ≤ i → i ≠ 8 → i ≠ 12 → i ≠ 16 → i ≠ 17 → v.getLsbD i = false

/-- Writes of read-only registers complete and change nothing (R93, R109, R115, R117, R149). -/
def Obligations.ReadOnlyWritesAreIgnored : Prop :=
  ∀ (s : State) (d : Word),
    TxnIs 0x1008#13 d (.wrTmrValue d) ∧ TxnIs 0x110C#13 d (.wrAdcRis d) ∧ TxnIs 0x1118#13 d (.wrAdcFifo d) ∧
    TxnIs 0x111C#13 d (.wrAdcFstat d) ∧ TxnIs 0x1228#13 d (.wrSgActive d) ∧
    exec (.wrTmrValue d) s = .next s ∧ exec (.wrAdcRis d) s = .next s ∧ exec (.wrAdcFifo d) s = .next s ∧
    exec (.wrAdcFstat d) s = .next s ∧ exec (.wrSgActive d) s = .next s

/-- Reads of write-only registers give 0 and change nothing (R106, R134, R138, R140). -/
def Obligations.WriteOnlyRegistersReadZero : Prop :=
  TxnIs 0x0108#13 0#32 .rdAdcPssi ∧ TxnIs 0x020C#13 0#32 .rdSgEnaclr ∧ TxnIs 0x0214#13 0#32 .rdSgAltclr ∧
  TxnIs 0x0218#13 0#32 .rdSgSwreq ∧
  ∀ s : State, exec .rdAdcPssi s = .next { s with rdata := 0#32 } ∧ exec .rdSgEnaclr s = .next { s with rdata := 0#32 } ∧
    exec .rdSgAltclr s = .next { s with rdata := 0#32 } ∧ exec .rdSgSwreq s = .next { s with rdata := 0#32 }

/-! ### The sequencer's steps -/

/-- SEQ.START (R118): enabled exactly when the sequence is enabled, idle and triggered; with no END step it raises
Fault(F04), otherwise the sequence starts at step 0 and the trigger is consumed. -/
def Obligations.SequenceStart : Prop :=
  ∀ s : State,
    let enabled := s.adc.seqEn = true ∧ s.seq.busy = false ∧ (s.seq.pending = true ∨ s.adc.trig = 2#2)
    (startEnabled s = true ↔ enabled) ∧
    (enabled → (∀ k : StepIx, (s.adc.steps[k]).last = false) → perform .seqStart s = .fault .F04) ∧
    (enabled → (∃ k : StepIx, (s.adc.steps[k]).last = true) →
      perform .seqStart s = .next { s with seq := { busy := true, step := 0, pending := false, fifo := s.seq.fifo } })

/-- Oversampling (R119): inputs already chosen are used in order; the sum of N = 2^k draws, k at most 6, is at most
64 times 4095, and the reported sample is the floor of the mean, exactly. -/
def Obligations.OversamplingReportsTheFloorOfTheMean : Prop :=
  (∀ (input : BitVec 4) (given rest : List Sample) (s : State), s.env.samples = given ++ rest →
    drawSum input given.length s =
      ((given.map BitVec.toNat).sum, { s with env := { s.env with samples := rest } })) ∧
  (∀ (input : BitVec 4) (k : Nat) (s : State), k ≤ 6 →
    (drawSum input (2 ^ k) s).1 ≤ 262080 ∧
    (average (drawSum input (2 ^ k) s).1 (2 ^ k)).toNat = (drawSum input (2 ^ k) s).1 / 2 ^ k) ∧
  ∀ v : Sample, average v.toNat 1 = v

/-- SEQ.CONV (R120, R121), enabled while busy: the average of the step's draws goes to the FIFO or, when it is full, is lost with
OV; IE sets INR and with DMA_EN requests channel 0; END ends the sequence. Nothing else changes. -/
def Obligations.ConversionStep : Prop :=
  (∀ s : State, convEnabled s = true ↔ s.seq.busy = true) ∧
  ∀ s : State, s.seq.busy = true →
    let cfg := s.adc.steps[s.seq.step]
    let n := 2 ^ s.adc.ovs.toNat
    let drawn := drawSum cfg.insel n s
    let room := decide (s.seq.fifo.length < 4)
    perform .seqConv s = .next { s with
      env := drawn.2.env
      seq := { s.seq with
        fifo := if room then s.seq.fifo ++ [BitVec.ofNat 12 (drawn.1 / n)] else s.seq.fifo
        busy := !cfg.last
        step := if cfg.last then 0 else s.seq.step + 1 }
      adc := { s.adc with
        ris := s.adc.ris ||| (if room then 0#3 else 2#3) ||| (if cfg.ie then 1#3 else 0#3) }
      sge := { s.sge with
        req := if cfg.ie && s.adc.dmaEn && s.sge.masterEn && hasChan s.sge.enable 0 then s.sge.req ||| 1#32
               else s.sge.req } }

/-- A started sequence converts the steps 0, 1, ..., e in order, e the first with END, and then stops (R122). -/
def Obligations.SequenceConvertsUpToTheFirstEnd : Prop :=
  ∀ (s : State) (e : StepIx), s.seq.busy = true → s.seq.step = 0 → (s.adc.steps[e]).last = true →
    (∀ k : StepIx, k.val < e.val → (s.adc.steps[k]).last = false) →
    (∀ j : StepIx, j.val ≤ e.val → (seqConvs j.val s).seq.busy = true ∧ (seqConvs j.val s).seq.step = j) ∧
    (seqConvs (e.val + 1) s).seq.busy = false ∧ (seqConvs (e.val + 1) s).seq.step = 0

/-! ### The engine's registers -/

/-- Reads of the engine's registers return what State holds (R128, R130, R132, R136, R142, R144, R146). -/
def Obligations.EngineReadsReturnTheRegisters : Prop :=
  TxnIs 0x0200#13 0#32 .rdSgCfg ∧ TxnIs 0x0204#13 0#32 .rdSgCtlbase ∧ TxnIs 0x0208#13 0#32 .rdSgEnaset ∧
  TxnIs 0x0210#13 0#32 .rdSgAltset ∧ TxnIs 0x021C#13 0#32 .rdSgErrclr ∧ TxnIs 0x0220#13 0#32 .rdSgDone ∧
  TxnIs 0x0224#13 0#32 .rdSgDoneim ∧
  ∀ s : State,
    exec .rdSgCfg s = .next { s with rdata := if s.sge.masterEn then 1#32 else 0#32 } ∧
    exec .rdSgCtlbase s = .next { s with rdata := s.sge.ctlBase } ∧
    (tableOk s → ∀ i, i < 10 → s.sge.ctlBase.getLsbD i = false) ∧
    exec .rdSgEnaset s = .next { s with rdata := s.sge.enable } ∧
    exec .rdSgAltset s = .next { s with rdata := s.sge.altSel } ∧
    exec .rdSgErrclr s = .next { s with rdata := if s.sge.err then 1#32 else 0#32 } ∧
    exec .rdSgDone s = .next { s with rdata := s.sge.done } ∧
    exec .rdSgDoneim s = .next { s with rdata := s.sge.doneIm }

/-- A read of SG_ACTIVE (R148): bit c is 1 exactly when channel c is served; with at most one channel served, at most one
bit is 1. -/
def Obligations.ActiveReadShowsTheServedChannel : Prop :=
  TxnIs 0x0228#13 0#32 .rdSgActive ∧
  ∀ s : State, ∃ v : Word, exec .rdSgActive s = .next { s with rdata := v } ∧
    (∀ c : Chan, hasChan v c = decide (s.sge.rs[c] ≠ .idle)) ∧
    (oneActive s → ∀ c d : Chan, hasChan v c = true → hasChan v d = true → c = d)

/-- A write of SG_CFG (R129): F08 for disabling the controller during a run. -/
def Obligations.WriteSgCfgGuardsTheRun : Prop :=
  ∀ (s : State) (d : Word),
    TxnIs 0x1200#13 d (.wrSgCfg d) ∧
    (d.getLsbD 0 = false → (∃ c : Chan, s.sge.rs[c] ≠ .idle) → exec (.wrSgCfg d) s = .fault .F08) ∧
    (d.getLsbD 0 = true ∨ (∀ c : Chan, s.sge.rs[c] = .idle) →
      exec (.wrSgCfg d) s = .next { s with sge := { s.sge with masterEn := d.getLsbD 0 } })

/-- A write of SG_CTLBASE (R131): F08 while a channel is enabled; otherwise the low 10 bits are dropped. -/
def Obligations.WriteSgCtlbaseAlignsTheTable : Prop :=
  ∀ (s : State) (d : Word),
    TxnIs 0x1204#13 d (.wrSgCtlbase d) ∧
    ((∃ c : Chan, hasChan s.sge.enable c = true) → exec (.wrSgCtlbase d) s = .fault .F08) ∧
    ((∀ c : Chan, hasChan s.sge.enable c = false) → ∃ v : Word,
      exec (.wrSgCtlbase d) s = .next { s with sge := { s.sge with ctlBase := v } } ∧
      ∀ i, v.getLsbD i = (d.getLsbD i && decide (10 ≤ i)))

/-- Writes of SG_ENASET and SG_ENACLR, channel by channel (R133, R135): F08 for disabling a served channel; a disabled
channel's latched request is dropped. -/
def Obligations.EnableWritesSetAndClearChannels : Prop :=
  ∀ (s : State) (d : Word),
    TxnIs 0x1208#13 d (.wrSgEnaset d) ∧ TxnIs 0x120C#13 d (.wrSgEnaclr d) ∧
    (∃ v : Word, exec (.wrSgEnaset d) s = .next { s with sge := { s.sge with enable := v } } ∧
      ∀ c : Chan, hasChan v c = (hasChan s.sge.enable c || hasChan d c)) ∧
    ((∃ c : Chan, hasChan d c = true ∧ s.sge.rs[c] ≠ .idle) → exec (.wrSgEnaclr d) s = .fault .F08) ∧
    ((∀ c : Chan, hasChan d c = true → s.sge.rs[c] = .idle) → ∃ v w : Word,
      exec (.wrSgEnaclr d) s = .next { s with sge := { s.sge with enable := v, req := w } } ∧
      ∀ c : Chan, hasChan v c = (hasChan s.sge.enable c && !hasChan d c) ∧
        hasChan w c = (hasChan s.sge.req c && !hasChan d c))

/-- Writes of SG_ALTSET and SG_ALTCLR, channel by channel (R137, R139): F08 on a served channel. -/
def Obligations.AlternateWritesSetAndClearChannels : Prop :=
  ∀ (s : State) (d : Word),
    TxnIs 0x1210#13 d (.wrSgAltset d) ∧ TxnIs 0x1214#13 d (.wrSgAltclr d) ∧
    ((∃ c : Chan, hasChan d c = true ∧ s.sge.rs[c] ≠ .idle) →
      exec (.wrSgAltset d) s = .fault .F08 ∧ exec (.wrSgAltclr d) s = .fault .F08) ∧
    ((∀ c : Chan, hasChan d c = true → s.sge.rs[c] = .idle) → ∃ v w : Word,
      exec (.wrSgAltset d) s = .next { s with sge := { s.sge with altSel := v } } ∧
      exec (.wrSgAltclr d) s = .next { s with sge := { s.sge with altSel := w } } ∧
      ∀ c : Chan, hasChan v c = (hasChan s.sge.altSel c || hasChan d c) ∧
        hasChan w c = (hasChan s.sge.altSel c && !hasChan d c))

/-- A write of SG_SWREQ (R141, R150): a request is latched on each named channel that is enabled while the controller is;
any other request is dropped. -/
def Obligations.SoftwareRequestsAreLatched : Prop :=
  ∀ (s : State) (d : Word),
    TxnIs 0x1218#13 d (.wrSgSwreq d) ∧
    ∃ v : Word, exec (.wrSgSwreq d) s = .next { s with sge := { s.sge with req := v } } ∧
      ∀ c : Chan, hasChan v c =
        (hasChan s.sge.req c || (hasChan d c && s.sge.masterEn && hasChan s.sge.enable c))

/-- Writes of SG_ERRCLR, SG_DONE and SG_DONEIM (R143, R145, R147). -/
def Obligations.StatusClearAndMaskWrites : Prop :=
  ∀ (s : State) (d : Word),
    TxnIs 0x121C#13 d (.wrSgErrclr d) ∧ TxnIs 0x1220#13 d (.wrSgDone d) ∧ TxnIs 0x1224#13 d (.wrSgDoneim d) ∧
    exec (.wrSgErrclr d) s = .next { s with sge := { s.sge with err := s.sge.err && !d.getLsbD 0 } } ∧
    (∃ v : Word, exec (.wrSgDone d) s = .next { s with sge := { s.sge with done := v } } ∧
      ∀ c : Chan, hasChan v c = (hasChan s.sge.done c && !hasChan d c)) ∧
    exec (.wrSgDoneim d) s = .next { s with sge := { s.sge with doneIm := d } }

/-! ### The engine's steps -/

/-- When the engine's steps are enabled (R151). -/
def Obligations.ArbitrationEnablesOneAtATime : Prop :=
  ∀ (s : State) (c : Chan),
    (acceptEnabled c s = true ↔ s.sge.masterEn = true ∧ hasChan s.sge.enable c = true ∧ hasChan s.sge.req c = true ∧
      ∀ d : Chan, s.sge.rs[d] = .idle) ∧
    (elemEnabled c s = true ↔ s.sge.rs[c] ≠ .idle) ∧
    (elemEnabled c s = true → ∀ d : Chan, acceptEnabled d s = false)

/-- STOP (R162): at an accept the channel is disabled and the request consumed, with no DONE; at an element step the run
completes. No other field of the word matters. -/
def Obligations.StopDisablesOrCompletes : Prop :=
  ∀ (f : CtlFields) (s : State),
    (s.sge.rs[s.latch.chan] = .idle → ∃ v w : Word,
      exec (.sgctlStop f) s = .next { s with sge := { s.sge with enable := v, req := w } } ∧
      ∀ d : Chan, hasChan v d = (hasChan s.sge.enable d && !decide (d = s.latch.chan)) ∧
        hasChan w d = (hasChan s.sge.req d && !decide (d = s.latch.chan))) ∧
    (s.sge.rs[s.latch.chan] ≠ .idle → exec (.sgctlStop f) s = .next (complete s.latch.chan s))

/-- SG.ACCEPT of a legal BASIC, AUTO or MEM_SG word (R152): the request is consumed, no element moves, and the run starts:
BASIC with a budget of 2^ARBSIZE elements, AUTO without limit, a MEM_SG primary of whole tasks as a chain run. -/
def Obligations.AcceptStartsTheRun : Prop :=
  ∀ (f : CtlFields) (s : State), s.sge.rs[s.latch.chan] = .idle →
    let c := s.latch.chan
    (FieldsFit .basic f → exec (.sgctlBasic f) s = .next { s with sge := { s.sge with
      req := clearChan s.sge.req c, rs := s.sge.rs.set c.val (.active (.elems (2 ^ f.arbSize.toNat)) false) c.isLt } }) ∧
    (FieldsFit .auto f → exec (.sgctlAuto f) s = .next { s with sge := { s.sge with
      req := clearChan s.sge.req c, rs := s.sge.rs.set c.val (.active .inf false) c.isLt } }) ∧
    (FieldsFit .memSg f → hasChan s.sge.altSel c = false → (f.xferSize.toNat + 1) % 4 = 0 →
      exec (.sgctlMemSg f) s = .next { s with sge := { s.sge with
        req := clearChan s.sge.req c, rs := s.sge.rs.set c.val (.active .inf true) c.isLt } }) ∧
    exec (.sgctlAltSg f) s = .fault .F05

/-- CheckCtl (R153) on a word whose mode is not STOP: F05 for a mode out of place, then F06 for a broken field constraint,
then at an accept F07 for a MEM_SG count that is no multiple of 4, and otherwise no fault. An accept and an element step
raise these faults (R152, R155). -/
def Obligations.ControlWordCheck : Prop :=
  (∀ (m : XferMode) (f : CtlFields) (isAlt chain atAccept : Bool), m ≠ .stop →
    (¬ ModeFits m isAlt chain → checkCtl m f isAlt chain atAccept = .error .F05) ∧
    (ModeFits m isAlt chain → ¬ FieldsFit m f → checkCtl m f isAlt chain atAccept = .error .F06) ∧
    (ModeFits m isAlt chain → FieldsFit m f → atAccept = true → m = .memSg → (f.xferSize.toNat + 1) % 4 ≠ 0 →
      checkCtl m f isAlt chain atAccept = .error .F07) ∧
    (ModeFits m isAlt chain → FieldsFit m f → ¬ (atAccept = true ∧ m = .memSg ∧ (f.xferSize.toNat + 1) % 4 ≠ 0) →
      checkCtl m f isAlt chain atAccept = .ok ())) ∧
  ∀ (m : XferMode) (f : CtlFields) (s : State), m ≠ .stop →
    let c := s.latch.chan
    let isAlt := hasChan s.sge.altSel c
    (s.sge.rs[c] = .idle →
      let chain := decide (isAlt = false ∧ m = .memSg)
      (¬ ModeFits m isAlt chain → exec (ctlInstr m f) s = .fault .F05) ∧
      (ModeFits m isAlt chain → ¬ FieldsFit m f → exec (ctlInstr m f) s = .fault .F06) ∧
      (ModeFits m isAlt chain → FieldsFit m f → m = .memSg → (f.xferSize.toNat + 1) % 4 ≠ 0 →
        exec (ctlInstr m f) s = .fault .F07)) ∧
    ∀ (b : Budget) (chain : Bool), s.sge.rs[c] = .active b chain →
      (¬ ModeFits m isAlt chain → exec (ctlInstr m f) s = .fault .F05) ∧
      (ModeFits m isAlt chain → ¬ FieldsFit m f → exec (ctlInstr m f) s = .fault .F06)

/-- SG.ELEM of BASIC, AUTO or ALT_SG with more elements to come, every access outside the window and answered ok (R155,
R159, R160): one element is copied, the control word is counted down in memory, the budget by one; nothing else changes. -/
def Obligations.ElementIsCopiedAndCounted : Prop :=
  ∀ (m : XferMode) (f : CtlFields) (b : Budget) (chain : Bool) (s u : State),
    let c := s.latch.chan
    let isAlt := hasChan s.sge.altSel c
    let size := sizeOfCode f.srcSize
    let src := srcAddr f s.latch.srcEnd
    let dst := dstAddr m f s.latch.dstEnd isAlt
    let ctlAt := structAddr s c + 8#32
    m = .basic ∨ m = .auto ∨ m = .altSg → (m = .altSg → isAlt = true ∧ chain = true) →
    s.sge.rs[c] = .active b chain → FieldsFit m f → 1 ≤ f.xferSize.toNat →
    src.toNat % sizeBytes size = 0 → dst.toNat % sizeBytes size = 0 →
    Outside s src → Outside s dst → Outside s ctlAt →
    busAnswers [(src, size, .read), (dst, size, .write), (ctlAt, .word, .write)] s = ([true, true, true], u) →
    exec (ctlInstr m f) s = .next { s with
      env := u.env
      mem := memWrite (memWrite s.mem dst size (memRead s.mem src size)) ctlAt .word
        (ctlWord m { f with xferSize := f.xferSize - 1#10 })
      sge := { s.sge with rs := s.sge.rs.set c.val (afterElement b chain) c.isLt } }

/-- SG.ELEM of a MEM_SG primary (R155, R166): one word of a task is copied to its place in the alternate, the count falls
(to STOP after the list's last word), and after each fourth word the alternate is selected. -/
def Obligations.TaskWordIsFetched : Prop :=
  ∀ (f : CtlFields) (b : Budget) (chain : Bool) (s u : State),
    let c := s.latch.chan
    let left := f.xferSize.toNat
    let src := s.latch.srcEnd - BitVec.ofNat 32 left * 4#32
    let dst := s.latch.dstEnd - BitVec.ofNat 32 (left % 4) * 4#32
    let ctlAt := s.sge.ctlBase + BitVec.ofNat 32 (16 * c.val) + 8#32
    hasChan s.sge.altSel c = false → s.sge.rs[c] = .active b chain → FieldsFit .memSg f →
    src.toNat % 4 = 0 → dst.toNat % 4 = 0 →
    Outside s src → Outside s dst → Outside s ctlAt →
    busAnswers [(src, .word, .read), (dst, .word, .write), (ctlAt, .word, .write)] s = ([true, true, true], u) →
    exec (.sgctlMemSg f) s = .next { s with
      env := u.env
      mem := memWrite (memWrite s.mem dst .word (memRead s.mem src .word)) ctlAt .word
        (if left = 0 then ctlWord .stop { f with xferSize := 0#10 }
         else ctlWord .memSg { f with xferSize := f.xferSize - 1#10 })
      sge := { s.sge with altSel := if left % 4 = 0 then setChan s.sge.altSel c else s.sge.altSel } }

/-- The last element of a task or a structure (R155, R160, R167): the copy task's word comes from ADC_FIFO, whose oldest
entry it removes; after an ALT_SG task the primary is selected again; after BASIC or AUTO the run completes. -/
def Obligations.LastElementReturnsOrCompletes : Prop :=
  ∀ (f : CtlFields) (b : Budget) (chain : Bool) (s u : State),
    let c := s.latch.chan
    let size := sizeOfCode f.srcSize
    let src := s.latch.srcEnd
    let dst := s.latch.dstEnd
    let ctlAt := structAddr s c + 8#32
    let ended := ctlWord .stop { f with xferSize := 0#10 }
    let copied := { s with env := u.env,
                           mem := memWrite (memWrite s.mem dst size (memRead s.mem src size)) ctlAt .word ended }
    s.sge.rs[c] = .active b chain → FieldsFit .auto f → f.xferSize = 0#10 →
    src.toNat % sizeBytes size = 0 → dst.toNat % sizeBytes size = 0 → Outside s dst → Outside s ctlAt →
    (Outside s src →
      busAnswers [(src, size, .read), (dst, size, .write), (ctlAt, .word, .write)] s = ([true, true, true], u) →
      (chain = true → hasChan s.sge.altSel c = true →
        exec (.sgctlAltSg f) s = .next { copied with sge := { s.sge with altSel := clearChan s.sge.altSel c } }) ∧
      exec (.sgctlBasic f) s = .next (complete c copied) ∧ exec (.sgctlAuto f) s = .next (complete c copied)) ∧
    (∀ (v : Sample) (rest : List Sample), chain = true → hasChan s.sge.altSel c = true → f.srcSize = 2#2 →
      src = s.blockPage ++ 0x118#12 → s.seq.fifo = v :: rest →
      busAnswers [(dst, .word, .write), (ctlAt, .word, .write)] s = ([true, true], u) →
      exec (.sgctlAltSg f) s = .next { s with
        env := u.env
        mem := memWrite (memWrite s.mem dst .word (v.setWidth 32)) ctlAt .word ended
        seq := { s.seq with fifo := rest }
        sge := { s.sge with altSel := clearChan s.sge.altSel c } })

/-- A bus error on an element (R157, R175, R176), in every mode that moves elements and for the last element too: SG_ERR is
set and the element is lost, after a failed read or a failed write nothing is stored but the counted-down control word, and
the step goes on as if the element had completed. A copy task whose write fails has taken its word from ADC_FIFO. -/
def Obligations.ElementBusErrorLosesOneElement : Prop :=
  ∀ (m : XferMode) (f : CtlFields) (b : Budget) (chain : Bool) (s u : State),
    let c := s.latch.chan
    let isAlt := hasChan s.sge.altSel c
    let size := sizeOfCode f.srcSize
    let src := srcAddr f s.latch.srcEnd
    let dst := dstAddr m f s.latch.dstEnd isAlt
    let ctlAt := structAddr s c + 8#32
    let lost := { s with env := u.env, mem := memWrite s.mem ctlAt .word (countedDown m f),
                         sge := { s.sge with err := true } }
    m ≠ .stop → ModeFits m isAlt chain → s.sge.rs[c] = .active b chain → FieldsFit m f →
    src.toNat % sizeBytes size = 0 → dst.toNat % sizeBytes size = 0 → Outside s dst → Outside s ctlAt →
    (Outside s src →
      busAnswers [(src, size, .read), (ctlAt, .word, .write)] s = ([false, true], u) ∨
        busAnswers [(src, size, .read), (dst, size, .write), (ctlAt, .word, .write)] s = ([true, false, true], u) →
      exec (ctlInstr m f) s = .next (afterMove m f b chain c lost)) ∧
    (∀ (v : Sample) (rest : List Sample), size = .word → src = s.blockPage ++ 0x118#12 → s.seq.fifo = v :: rest →
      busAnswers [(dst, size, .write), (ctlAt, .word, .write)] s = ([false, true], u) →
      exec (ctlInstr m f) s = .next (afterMove m f b chain c { lost with seq := { s.seq with fifo := rest } }))

/-- A misaligned element raises Fault(F09), whatever the bus would answer (R156). -/
def Obligations.MisalignedElementFaults : Prop :=
  ∀ (m : XferMode) (f : CtlFields) (b : Budget) (chain : Bool) (s : State),
    let c := s.latch.chan
    let isAlt := hasChan s.sge.altSel c
    let size := sizeOfCode f.srcSize
    m ≠ .stop → ModeFits m isAlt chain → FieldsFit m f → s.sge.rs[c] = .active b chain →
    (srcAddr f s.latch.srcEnd).toNat % sizeBytes size ≠ 0 ∨
      (dstAddr m f s.latch.dstEnd isAlt).toNat % sizeBytes size ≠ 0 →
    exec (ctlInstr m f) s = .fault .F09

/-- A structure bus error (R158), at an accept, at an element step's fetch, or at its write-back: SG_ERR is set, the
channel is disabled and idle with its primary selected, and DONE is not set. In every mode, what the element stored before
a failed write-back stays stored, and an element that was lost itself stored nothing. -/
def Obligations.StructureBusErrorDropsTheChannel : Prop :=
  (∀ (c : Chan) (s u : State), acceptEnabled c s = true → Outside s (structAddr s c + 8#32) →
    busAnswers [(structAddr s c + 8#32, .word, .read)] s = ([false], u) →
    perform (.sgAccept c) s = .next { s with env := u.env, sge := { aborted c s.sge with
      req := clearChan s.sge.req c } }) ∧
  (∀ (c : Chan) (s u : State) (oks : List Bool), elemEnabled c s = true →
    let base := structAddr s c
    Outside s base → Outside s (base + 4#32) → Outside s (base + 8#32) →
    busAnswers [(base, .word, .read), (base + 4#32, .word, .read), (base + 8#32, .word, .read)] s = (oks, u) →
    false ∈ oks →
    perform (.sgElem c) s = .next { s with env := u.env, sge := aborted c s.sge }) ∧
  ∀ (m : XferMode) (f : CtlFields) (b : Budget) (chain : Bool) (s u : State),
    let c := s.latch.chan
    let isAlt := hasChan s.sge.altSel c
    let size := sizeOfCode f.srcSize
    let src := srcAddr f s.latch.srcEnd
    let dst := dstAddr m f s.latch.dstEnd isAlt
    let ctlAt := structAddr s c + 8#32
    m ≠ .stop → ModeFits m isAlt chain → s.sge.rs[c] = .active b chain → FieldsFit m f →
    src.toNat % sizeBytes size = 0 → dst.toNat % sizeBytes size = 0 →
    Outside s src → Outside s dst → Outside s ctlAt →
    (busAnswers [(src, size, .read), (dst, size, .write), (ctlAt, .word, .write)] s = ([true, true, false], u) →
      exec (ctlInstr m f) s = .next { s with
        env := u.env, mem := memWrite s.mem dst size (memRead s.mem src size), sge := aborted c s.sge }) ∧
    (busAnswers [(src, size, .read), (ctlAt, .word, .write)] s = ([false, false], u) ∨
        busAnswers [(src, size, .read), (dst, size, .write), (ctlAt, .word, .write)] s = ([true, false, false], u) →
      exec (ctlInstr m f) s = .next { s with env := u.env, sge := aborted c s.sge })

/-- Completion and the self-reload test (R161, R170): the run ends, DONE is set, the primary is selected, and the channel
stays enabled exactly when its primary's control word can be read and is not STOP. When it cannot be read, DONE is not set
(R158, K30): R161's pseudocode says otherwise, and following R158 is the model's reading, log entry 21. -/
def Obligations.CompletionTestsThePrimary : Prop :=
  ∀ (c : Chan) (s u : State) (ok : Bool),
    let at8 := s.sge.ctlBase + BitVec.ofNat 32 (16 * c.val) + 8#32
    Outside s at8 → busAnswers [(at8, .word, .read)] s = ([ok], u) →
    complete c s = { s with env := u.env, sge := { s.sge with
      rs := s.sge.rs.set c.val .idle c.isLt
      altSel := clearChan s.sge.altSel c
      done := if ok = true then setChan s.sge.done c else s.sge.done
      err := s.sge.err || !ok
      enable := if ok = true ∧ (memRead s.mem at8 .word).extractLsb' 0 3 ≠ 0#3 then s.sge.enable
                else clearChan s.sge.enable c } }

/-- The reserved modes raise Fault(F05) at an accept and at an element step, whatever the other fields (R165, R168,
R169). -/
def Obligations.ReservedModesFault : Prop :=
  ∀ (f : CtlFields) (s : State), exec (.sgctlRsvd3 f) s = .fault .F05 ∧ exec (.sgctlRsvd6 f) s = .fault .F05 ∧
    exec (.sgctlRsvd7 f) s = .fault .F05

/-- The error response (R198, R57): a host access with no row of its own raises Fault(F10); the same access by the engine
is a bus error that changes nothing. -/
def Obligations.ErrorResponseFaultsOnlyTheHost : Prop :=
  (∀ (width : Nat) (tw : TxnWord) (d : Word) (s : State),
    width ≠ 4 ∨ (∀ r : Reg, regOffset r ≠ txnOffset tw) → hostTxn width tw d s = .fault .F10) ∧
  (∀ (width : Nat) (tw : TxnWord) (d : Word) (s : State), exec (.busErr width tw d) s = .fault .F10) ∧
  ∀ (s : State) (off : BitVec 12) (size : Size) (v : Word),
    size ≠ .word ∨ (∀ r : Reg, regOffset r ≠ off) →
    sgeRead s (s.blockPage ++ off) size = (none, s) ∧ sgeWrite s (s.blockPage ++ off) size v = .ok (false, s)

/-- The operands of a control word (R75): sizes, increments, count, burst and the two element addresses; and its write-back
(R159): one element fewer with every other bit kept, or STOP with count 0 after the last. So the source walks one increment
on to SRC_END, and outside a MEM_SG primary the destination one increment on to DST_END. -/
def Obligations.ControlWordOperandsAndWriteBack : Prop :=
  (∀ code : BitVec 2, code ≠ 3#2 →
    sizeBytes (sizeOfCode code) = 2 ^ code.toNat ∧ incOfCode code = BitVec.ofNat 32 (2 ^ code.toNat)) ∧
  incOfCode 3#2 = 0#32 ∧
  ∀ (m : XferMode) (f : CtlFields),
    remaining f = f.xferSize.toNat + 1 ∧ burst f = 2 ^ f.arbSize.toNat ∧
    (∀ srcEnd : Word, srcAddr f srcEnd = srcEnd - BitVec.ofNat 32 f.xferSize.toNat * incOfCode f.srcInc) ∧
    (∀ (dstEnd : Word) (isAlt : Bool), dstAddr m f dstEnd isAlt =
      dstEnd - BitVec.ofNat 32 (if isAlt = false ∧ m = .memSg then f.xferSize.toNat % 4 else f.xferSize.toNat) *
        incOfCode f.dstInc) ∧
    (f.xferSize ≠ 0#10 → ctlMode (writeBack m f) = m ∧
      ctlFields (writeBack m f) = { f with xferSize := f.xferSize - 1#10 } ∧
      (∀ srcEnd : Word,
        srcAddr { f with xferSize := f.xferSize - 1#10 } srcEnd = srcAddr f srcEnd + incOfCode f.srcInc) ∧
      ∀ (dstEnd : Word) (isAlt : Bool), ¬ (isAlt = false ∧ m = .memSg) →
        dstAddr m { f with xferSize := f.xferSize - 1#10 } dstEnd isAlt =
          dstAddr m f dstEnd isAlt + incOfCode f.dstInc) ∧
    (f.xferSize = 0#10 → ctlMode (writeBack m f) = .stop ∧ ctlFields (writeBack m f) = f ∧
      (∀ srcEnd : Word, srcAddr f srcEnd = srcEnd) ∧
      ∀ (dstEnd : Word) (isAlt : Bool), dstAddr m f dstEnd isAlt = dstEnd)

/-! ### Memory and lines -/

/-- Memory is little-endian (R49), a read returns the last bytes written, and a write changes no other byte (R61). -/
def Obligations.MemoryIsLittleEndianAndLocal : Prop :=
  ∀ (m : Memory) (a v : Word) (size : Size),
    memRead m a .word = memByte m (a + 3#32) ++ memByte m (a + 2#32) ++ memByte m (a + 1#32) ++ memByte m a ∧
    memRead m a .half = ((memRead m a .word).extractLsb' 0 16).setWidth 32 ∧
    memRead m (a + 2#32) .half = ((memRead m a .word).extractLsb' 16 16).setWidth 32 ∧
    memRead (memWrite m a size v) a size = (v.setWidth (8 * sizeBytes size)).setWidth 32 ∧
    ∀ x : Word, (∀ k, k < sizeBytes size → x ≠ a + BitVec.ofNat 32 k) →
      memByte (memWrite m a size v) x = memByte m x

/-- The host's accesses of system memory outside the window (R46, R83): a read returns the word and changes nothing else, a
write changes only its word, and a read returns what was written; at an address that is no multiple of 4 this is the model's
choice, log entry 12. -/
def Obligations.HostMemoryAccess : Prop :=
  ∀ (s : State) (a v : Word), Outside s a →
    perform (.memRead a) s = .next { s with rdata := memRead s.mem a .word } ∧
    perform (.memWrite a v) s = .next { s with mem := memWrite s.mem a .word v } ∧
    perform (.memSave a) s = .next { s with mem := memWrite s.mem a .word s.rdata } ∧
    perform (.memRead a) { s with mem := memWrite s.mem a .word v } =
      .next { s with mem := memWrite s.mem a .word v, rdata := v }

/-- The three interrupt lines (R200, R201, R202). -/
def Obligations.LinesAreTheMaskedStatus : Prop :=
  ∀ s : State,
    (adcIrq s = true ↔ ∃ i, i < 3 ∧ s.adc.ris.getLsbD i = true ∧ s.adc.im.getLsbD i = true) ∧
    (∃ v : Word, exec .rdAdcIsc s = .next { s with rdata := v } ∧ (adcIrq s = true ↔ v ≠ 0#32)) ∧
    (sgIrq s = true ↔ ∃ c : Chan, hasChan s.sge.done c = true ∧ hasChan s.sge.doneIm c = true) ∧
    sgErrIrq s = s.sge.err

/-- What no register transaction does (R45, R55): it changes no byte of memory, no run state and nothing of the
environment but the free input of an underflowing FIFO read, and it sets no status flag but UV by a FIFO read. The engine's
access of a register is the host's (R46, D33): the same value, the same side effects, and, by the model's reading, log entry
11, the same faults. -/
def Obligations.RegisterAccessFrame : Prop :=
  (∀ (width : Nat) (tw : TxnWord) (d : Word) (s t : State), hostTxn width tw d s = .next t →
    t.mem = s.mem ∧ t.sge.rs = s.sge.rs ∧ t.blockPage = s.blockPage ∧ t.latch = s.latch ∧ t.fault = s.fault ∧
    t.env.script = s.env.script ∧ t.env.responses = s.env.responses ∧ t.env.samples = s.env.samples ∧
    (tw ≠ 0x118#13 → t.env = s.env) ∧
    (∀ i, t.adc.ris.getLsbD i = true → s.adc.ris.getLsbD i = true ∨ (i = 2 ∧ tw = 0x118#13)) ∧
    (t.sge.err = true → s.sge.err = true) ∧
    ∀ c : Chan, hasChan t.sge.done c = true → hasChan s.sge.done c = true) ∧
  ∀ (s : State) (r : Reg) (d : Word),
    (∃ (v : Word) (t : State), sgeRead s (s.blockPage ++ regOffset r) .word = (some v, t) ∧
      exec (readInstr r) s = .next { t with rdata := v }) ∧
    (∀ t : State, sgeWrite s (s.blockPage ++ regOffset r) .word d = .ok (true, t) ↔ exec (writeInstr r d) s = .next t) ∧
    (∀ f : Fault, sgeWrite s (s.blockPage ++ regOffset r) .word d = .error f ↔ exec (writeInstr r d) s = .fault f)
end

