-- ==== Sys2Proof/Laws/Decode.lean ====
section
/-! SUPPORT. The small lemmas of Decode and RegMap: words and bytes, control words and their fields, registers and their
offsets. -/

namespace Sys2Proof.Laws

theorem regAt_regOffset (r : Reg) : regAt (regOffset r) = some r := by
  cases r <;> decide

theorem regOffset_of_regAt {off : BitVec 12} {r : Reg} (h : regAt off = some r) : regOffset r = off := by
  have := List.find?_some h
  simpa using this

theorem txnOffset_readTxn (r : Reg) : txnOffset (readTxn r) = regOffset r := by
  cases r <;> decide

theorem txnOffset_writeTxn (r : Reg) : txnOffset (writeTxn r) = regOffset r := by
  cases r <;> decide

theorem isWriteTxn_readTxn (r : Reg) : isWriteTxn (readTxn r) = false := by
  cases r <;> decide

theorem isWriteTxn_writeTxn (r : Reg) : isWriteTxn (writeTxn r) = true := by
  cases r <;> decide

theorem le32_bytes (w : Word) : le32 (byteOf w 0) (byteOf w 1) (byteOf w 2) (byteOf w 3) = w := by
  apply BitVec.eq_of_getLsbD_eq
  intro i hi
  simp only [le32, byteOf, BitVec.getLsbD_append, BitVec.getLsbD_extractLsb']
  by_cases h0 : i < 8
  · simp [h0]
  · by_cases h1 : i < 16
    · have : i - 8 < 8 := by omega
      simp [h0, this]; congr 1; omega
    · by_cases h2 : i < 24
      · have a : ¬ i - 8 < 8 := by omega
        have b : i - 8 - 8 < 8 := by omega
        simp [h0, a, b]; congr 1; omega
      · have a : ¬ i - 8 < 8 := by omega
        have b : ¬ i - 8 - 8 < 8 := by omega
        have c : i - 8 - 8 - 8 < 8 := by omega
        simp [h0, a, b, c]; congr 1; omega

theorem byteOf_le32_zero (b0 b1 b2 b3 : Byte) : byteOf (le32 b0 b1 b2 b3) 0 = b0 := by
  apply BitVec.eq_of_getLsbD_eq
  intro i hi
  simp only [byteOf, le32, BitVec.getLsbD_extractLsb', BitVec.getLsbD_append]
  simp [hi]

theorem modeOfCode_modeCode (m : XferMode) : modeOfCode (modeCode m) = m := by
  cases m <;> decide

theorem ctlMode_ctlWord (m : XferMode) (f : CtlFields) : ctlMode (ctlWord m f) = m := by
  have h : (ctlWord m f).extractLsb' 0 3 = modeCode m := by
    apply BitVec.eq_of_getLsbD_eq
    intro i hi
    simp only [ctlWord, BitVec.getLsbD_extractLsb', BitVec.getLsbD_append]
    simp [hi]
  simp [ctlMode, h, modeOfCode_modeCode]

theorem ctlFields_ctlWord (m : XferMode) (f : CtlFields) : ctlFields (ctlWord m f) = f := by
  cases f
  simp only [ctlFields, ctlWord, CtlFields.mk.injEq]
  refine ⟨?_, ?_, ?_, ?_, ?_, ?_, ?_, ?_⟩ <;>
  · apply BitVec.eq_of_getLsbD_eq
    intro i hi
    simp only [BitVec.getLsbD_extractLsb', BitVec.getLsbD_append, hi, decide_true, Bool.true_and]
    repeat first
      | rw [if_pos (by omega)]
      | rw [if_neg (by omega)]
    congr 1
    omega

/-- The bytes of a transaction word hold its 13 bits and three zeros above them. -/
theorem twBytes_half (tw : TxnWord) :
    (le16 (tw.extractLsb' 0 8) ((tw.extractLsb' 8 5).setWidth 8)).extractLsb' 13 3 = 0#3 ∧
    (le16 (tw.extractLsb' 0 8) ((tw.extractLsb' 8 5).setWidth 8)).setWidth 13 = tw := by
  constructor
  · apply BitVec.eq_of_getLsbD_eq
    intro i hi
    simp only [le16, BitVec.getLsbD_extractLsb', BitVec.getLsbD_append, BitVec.getLsbD_setWidth]
    rw [if_neg (by omega)]
    have h2 : ¬ (13 + i - 8) < 5 := by omega
    simp [h2]
  · apply BitVec.eq_of_getLsbD_eq
    intro i hi
    simp only [le16, BitVec.getLsbD_extractLsb', BitVec.getLsbD_append, BitVec.getLsbD_setWidth]
    split
    · rename_i h
      simp [hi, h]
    · rename_i h
      have h1 : i - 8 < 8 := by omega
      have h2 : i - 8 < 5 := by omega
      have h3 : 8 + (i - 8) = i := by omega
      simp [hi, h1, h2, h3]

theorem decode_txnBytes (width : Nat) (tw : TxnWord) (data : Word) (rest : List Byte) :
    decode (.regTxn width) (txnBytes tw data ++ rest) =
      .ok (txnInstr width tw (if isWriteTxn tw then data else 0#32), rest) := by
  obtain ⟨hi, lo⟩ := twBytes_half tw
  cases hw : isWriteTxn tw <;>
    simp only [txnBytes, twBytes, wordBytes, hw, List.cons_append, List.nil_append, decode, hi, lo, if_true, le32_bytes,
      Bool.false_eq_true, if_false]

theorem decode_wordBytes (w : Word) (rest : List Byte) :
    decode .sgCtl (wordBytes w ++ rest) = .ok (ctlInstr (ctlMode w) (ctlFields w), rest) := by
  simp only [wordBytes, List.cons_append, List.nil_append, decode, le32_bytes]

theorem decode_ctlWord (m : XferMode) (f : CtlFields) (rest : List Byte) :
    decode .sgCtl (wordBytes (ctlWord m f) ++ rest) = .ok (ctlInstr m f, rest) := by
  rw [decode_wordBytes, ctlMode_ctlWord, ctlFields_ctlWord]

theorem txnInstr_readTxn (r : Reg) (data : Word) : txnInstr 4 (readTxn r) data = readInstr r := by
  simp [txnInstr, txnOffset_readTxn, regAt_regOffset, isWriteTxn_readTxn]

theorem txnInstr_writeTxn (r : Reg) (data : Word) : txnInstr 4 (writeTxn r) data = writeInstr r data := by
  simp [txnInstr, txnOffset_writeTxn, regAt_regOffset, isWriteTxn_writeTxn]

theorem txnInstr_busErr {width : Nat} {tw : TxnWord} (data : Word) (h : busErrApplies width tw = true) :
    txnInstr width tw data = .busErr width tw data := by
  unfold txnInstr
  split
  · rename_i hw
    have : regAt (txnOffset tw) = none := by
      simpa [busErrApplies, hw] using h
    rw [this]
  · rfl

theorem decode_readTxn (r : Reg) (rest : List Byte) :
    decode (.regTxn 4) (txnBytes (readTxn r) 0#32 ++ rest) = .ok (readInstr r, rest) := by
  rw [decode_txnBytes, txnInstr_readTxn]

theorem decode_writeTxn (r : Reg) (data : Word) (rest : List Byte) :
    decode (.regTxn 4) (txnBytes (writeTxn r) data ++ rest) = .ok (writeInstr r data, rest) := by
  rw [decode_txnBytes, txnInstr_writeTxn, isWriteTxn_writeTxn]
  rfl

end Sys2Proof.Laws
end

