-- ==== Sys2Proof/Laws/Memory.lean ====
section
/-! SUPPORT. What the memory operations do: a byte read after a write, every other byte, and the canonical form. -/

namespace Sys2Proof.Laws

open Sys2Proof.Machine

@[simp] theorem memGet_memSet_self (m : Memory) (a : Nat) (b : Byte) : memGet (memSet m a b) a = some b := by
  induction m with
  | nil => simp [memSet, memGet]
  | cons c rest ih =>
    obtain ⟨k, v⟩ := c
    simp only [memSet]
    split
    · simp [memGet]
    · split
      · simp [memGet]
      · rename_i h1 h2
        have : ¬ k = a := fun h => h2 h.symm
        simp [memGet, this, ih]

theorem memGet_memSet_other (m : Memory) {a x : Nat} (b : Byte) (h : x ≠ a) :
    memGet (memSet m a b) x = memGet m x := by
  have h' : ¬ a = x := fun e => h e.symm
  induction m with
  | nil => simp [memSet, memGet, h']
  | cons c rest ih =>
    obtain ⟨k, v⟩ := c
    simp only [memSet]
    split
    · simp [memGet, h']
    · split
      · rename_i h1 h2
        subst h2
        simp [memGet, h']
      · simp [memGet, ih]

theorem mem_memSet {m : Memory} {a : Nat} {b : Byte} {c : Host.Cell} (h : c ∈ memSet m a b) :
    c = (a, b) ∨ c ∈ m := by
  induction m with
  | nil => simpa [memSet] using h
  | cons d rest ih =>
    obtain ⟨k, v⟩ := d
    simp only [memSet] at h
    split at h
    · simpa using h
    · split at h
      · rcases List.mem_cons.1 h with h | h
        · exact .inl h
        · exact .inr (List.mem_cons_of_mem _ h)
      · rcases List.mem_cons.1 h with h | h
        · exact .inr (h ▸ List.mem_cons_self)
        · rcases ih h with h | h
          · exact .inl h
          · exact .inr (List.mem_cons_of_mem _ h)

theorem memWf_iff (m : Memory) :
    memWf m = true ↔ m.Pairwise (fun c d => c.1 < d.1) ∧ ∀ c ∈ m, c.1 < 2 ^ 32 := by
  simp [memWf]

/-- A byte write below 2^32 keeps the canonical form. -/
theorem memWf_memSet {m : Memory} {a : Nat} (b : Byte) (ha : a < 2 ^ 32) (h : memWf m = true) :
    memWf (memSet m a b) = true := by
  rw [memWf_iff] at h ⊢
  refine ⟨?_, fun c hc => ?_⟩
  · have hs := h.1
    clear h
    induction m with
    | nil => simp [memSet]
    | cons d rest ih =>
      obtain ⟨k, v⟩ := d
      rw [List.pairwise_cons] at hs
      simp only [memSet]
      split
      · rename_i hlt
        rw [List.pairwise_cons, List.pairwise_cons]
        refine ⟨fun e he => ?_, hs⟩
        rcases List.mem_cons.1 he with he | he
        · exact he ▸ hlt
        · exact Nat.lt_trans hlt (hs.1 e he)
      · split
        · rename_i heq
          subst heq
          rw [List.pairwise_cons]
          exact hs
        · rename_i hlt hne
          rw [List.pairwise_cons]
          refine ⟨fun e he => ?_, ih hs.2⟩
          rcases mem_memSet he with he | he
          · subst he
            show k < a
            omega
          · exact hs.1 e he
  · rcases mem_memSet hc with hc | hc
    · exact hc ▸ ha
    · exact h.2 c hc

/-- Every memory write keeps the canonical form. -/
theorem memWf_memWrite {m : Memory} (a : Word) (size : Size) (v : Word) (h : memWf m = true) :
    memWf (memWrite m a size v) = true := by
  have lt : ∀ x : Word, x.toNat < 2 ^ 32 := fun x => x.isLt
  cases size
  · exact memWf_memSet _ (lt _) h
  · exact memWf_memSet _ (lt _) (memWf_memSet _ (lt _) h)
  · exact memWf_memSet _ (lt _) (memWf_memSet _ (lt _) (memWf_memSet _ (lt _) (memWf_memSet _ (lt _) h)))

@[simp] theorem memByte_memSet_self (m : Memory) (a : Word) (b : Byte) : memByte (memSet m a.toNat b) a = b := by
  simp [memByte]

theorem memByte_memSet_other (m : Memory) {a x : Word} (b : Byte) (h : x ≠ a) :
    memByte (memSet m a.toNat b) x = memByte m x := by
  have : x.toNat ≠ a.toNat := fun e => h (BitVec.eq_of_toNat_eq e)
  simp [memByte, memGet_memSet_other m b this]

/-- An address that is none of the written bytes' reads as before. -/
theorem memByte_memWrite_other (m : Memory) (a : Word) (size : Size) (v x : Word)
    (h : ∀ k, k < sizeBytes size → x ≠ a + BitVec.ofNat 32 k) :
    memByte (memWrite m a size v) x = memByte m x := by
  cases size
  · have h0 : x ≠ a := by simpa using h 0 (by decide)
    exact memByte_memSet_other m _ h0
  · have h0 : x ≠ a := by simpa using h 0 (by decide)
    have h1 : x ≠ a + 1#32 := h 1 (by decide)
    simp only [memWrite]
    rw [memByte_memSet_other _ _ h1, memByte_memSet_other _ _ h0]
  · have h0 : x ≠ a := by simpa using h 0 (by decide)
    have h1 : x ≠ a + 1#32 := h 1 (by decide)
    have h2 : x ≠ a + 2#32 := h 2 (by decide)
    have h3 : x ≠ a + 3#32 := h 3 (by decide)
    simp only [memWrite]
    rw [memByte_memSet_other _ _ h3, memByte_memSet_other _ _ h2, memByte_memSet_other _ _ h1,
      memByte_memSet_other _ _ h0]

end Sys2Proof.Laws
end

