-- ==== Sys2Proof/Laws/Channels.lean ====
section
/-! SUPPORT. Channel vectors bit by bit, and SG_ACTIVE's bits. -/

namespace Sys2Proof.Laws

open Sys2Proof.Machine

@[simp] theorem hasChan_setChan (v : Word) (c d : Chan) :
    hasChan (setChan v c) d = (hasChan v d || decide (c = d)) := by
  have hc := c.isLt
  have hd := d.isLt
  simp only [hasChan, setChan, chanBit, BitVec.getLsbD_or, BitVec.getLsbD_shiftLeft, BitVec.getLsbD_one]
  congr 1
  by_cases h : c = d
  · subst h; simp [hc]
  · have : c.val ≠ d.val := fun e => h (Fin.ext e)
    by_cases l : d.val < c.val <;> simp [l, h] <;> omega

@[simp] theorem hasChan_clearChan (v : Word) (c d : Chan) :
    hasChan (clearChan v c) d = (hasChan v d && !decide (c = d)) := by
  have hc := c.isLt
  have hd := d.isLt
  simp only [hasChan, clearChan, chanBit, BitVec.getLsbD_and, BitVec.getLsbD_not, BitVec.getLsbD_shiftLeft,
    BitVec.getLsbD_one, hd, decide_true, Bool.true_and]
  congr 2
  by_cases h : c = d
  · subst h; simp
  · have : c.val ≠ d.val := fun e => h (Fin.ext e)
    by_cases l : d.val < c.val <;> simp [l, h] <;> omega

/-- A channel's bit is cleared once. -/
@[simp] theorem clearChan_clearChan (v : Word) (c : Chan) : clearChan (clearChan v c) c = clearChan v c := by
  simp [clearChan, BitVec.and_assoc]

theorem getLsbD_wordOf (p : Nat → Bool) (n k : Nat) (hk : k < 32) :
    (wordOf p n).getLsbD k = (decide (k < n) && p k) := by
  induction n with
  | zero => simp [wordOf]
  | succ n ih =>
    simp only [wordOf]
    by_cases h : k = n
    · subst h
      split
      · rename_i hp; simp [hp, hk]
      · rename_i hp; simp [ih, hp]
    · have e : decide (k < n + 1) = decide (k < n) := by
        by_cases l : k < n
        · simp [l]; omega
        · simp [l]; omega
      split
      · rw [BitVec.getLsbD_or, ih, e]
        by_cases l : k < n
        · simp [l]
        · have : 1 ≤ k - n := by omega
          simp [l]; omega
      · rw [ih, e]

/-- SG_ACTIVE's bit c says whether channel c is served (R39). -/
theorem hasChan_activeVector (g : Sge) (c : Chan) : hasChan (activeVector g) c = (g.rs[c]).isActive := by
  have hc := c.isLt
  rw [hasChan, activeVector, getLsbD_wordOf _ _ _ hc]
  simp [hc]

theorem eq_zero_of_chans {v : Word} (h : ∀ c : Chan, hasChan v c = false) : v = 0#32 := by
  apply BitVec.eq_of_getLsbD_eq
  intro i hi
  rw [BitVec.getLsbD_zero]
  exact h ⟨i, hi⟩

/-- SG_ACTIVE is 0 exactly when no channel is served. -/
theorem activeVector_eq_zero (g : Sge) : activeVector g = 0#32 ↔ ∀ c : Chan, (g.rs[c]).isActive = false := by
  constructor
  · intro h c
    rw [← hasChan_activeVector, h]
    simp [hasChan]
  · intro h
    exact eq_zero_of_chans fun c => by rw [hasChan_activeVector]; exact h c

/-- A list of channels names a served one exactly when some served channel's bit is 1 in it. -/
theorem namesActive_eq_false {chans : Word} {g : Sge} (h : (chans &&& activeVector g) = 0#32) (c : Chan)
    (ha : (g.rs[c]).isActive = true) : hasChan chans c = false := by
  have hb : hasChan (chans &&& activeVector g) c = false := by rw [h]; simp [hasChan]
  rw [← hasChan_activeVector] at ha
  simp only [hasChan, BitVec.getLsbD_and] at hb ha ⊢
  rw [ha] at hb
  simpa using hb

end Sys2Proof.Laws
end

