-- ==== Sys2Proof/Laws/State.lean ====
section
/-! SUPPORT. One lemma per field per named update of the state, each true by rfl. -/

namespace Sys2Proof.Machine

@[simp] theorem setRun_tmr (c : Chan) (r : RunState) (s : State) : (setRun c r s).tmr = s.tmr := rfl
@[simp] theorem setRun_adc (c : Chan) (r : RunState) (s : State) : (setRun c r s).adc = s.adc := rfl
@[simp] theorem setRun_seq (c : Chan) (r : RunState) (s : State) : (setRun c r s).seq = s.seq := rfl
@[simp] theorem setRun_mem (c : Chan) (r : RunState) (s : State) : (setRun c r s).mem = s.mem := rfl
@[simp] theorem setRun_blockPage (c : Chan) (r : RunState) (s : State) : (setRun c r s).blockPage = s.blockPage := rfl
@[simp] theorem setRun_rdata (c : Chan) (r : RunState) (s : State) : (setRun c r s).rdata = s.rdata := rfl
@[simp] theorem setRun_latch (c : Chan) (r : RunState) (s : State) : (setRun c r s).latch = s.latch := rfl
@[simp] theorem setRun_env (c : Chan) (r : RunState) (s : State) : (setRun c r s).env = s.env := rfl
@[simp] theorem setRun_fault (c : Chan) (r : RunState) (s : State) : (setRun c r s).fault = s.fault := rfl
@[simp] theorem setRun_sge_masterEn (c : Chan) (r : RunState) (s : State) : (setRun c r s).sge.masterEn = s.sge.masterEn := rfl
@[simp] theorem setRun_sge_ctlBase (c : Chan) (r : RunState) (s : State) : (setRun c r s).sge.ctlBase = s.sge.ctlBase := rfl
@[simp] theorem setRun_sge_enable (c : Chan) (r : RunState) (s : State) : (setRun c r s).sge.enable = s.sge.enable := rfl
@[simp] theorem setRun_sge_altSel (c : Chan) (r : RunState) (s : State) : (setRun c r s).sge.altSel = s.sge.altSel := rfl
@[simp] theorem setRun_sge_req (c : Chan) (r : RunState) (s : State) : (setRun c r s).sge.req = s.sge.req := rfl
@[simp] theorem setRun_sge_done (c : Chan) (r : RunState) (s : State) : (setRun c r s).sge.done = s.sge.done := rfl
@[simp] theorem setRun_sge_doneIm (c : Chan) (r : RunState) (s : State) : (setRun c r s).sge.doneIm = s.sge.doneIm := rfl
@[simp] theorem setRun_sge_err (c : Chan) (r : RunState) (s : State) : (setRun c r s).sge.err = s.sge.err := rfl
@[simp] theorem setRun_sge_rs (c : Chan) (r : RunState) (s : State) : (setRun c r s).sge.rs = s.sge.rs.set c.val r c.isLt := rfl

@[simp] theorem disableChan_tmr (c : Chan) (s : State) : (disableChan c s).tmr = s.tmr := rfl
@[simp] theorem disableChan_adc (c : Chan) (s : State) : (disableChan c s).adc = s.adc := rfl
@[simp] theorem disableChan_seq (c : Chan) (s : State) : (disableChan c s).seq = s.seq := rfl
@[simp] theorem disableChan_mem (c : Chan) (s : State) : (disableChan c s).mem = s.mem := rfl
@[simp] theorem disableChan_blockPage (c : Chan) (s : State) : (disableChan c s).blockPage = s.blockPage := rfl
@[simp] theorem disableChan_rdata (c : Chan) (s : State) : (disableChan c s).rdata = s.rdata := rfl
@[simp] theorem disableChan_latch (c : Chan) (s : State) : (disableChan c s).latch = s.latch := rfl
@[simp] theorem disableChan_env (c : Chan) (s : State) : (disableChan c s).env = s.env := rfl
@[simp] theorem disableChan_fault (c : Chan) (s : State) : (disableChan c s).fault = s.fault := rfl
@[simp] theorem disableChan_sge_masterEn (c : Chan) (s : State) : (disableChan c s).sge.masterEn = s.sge.masterEn := rfl
@[simp] theorem disableChan_sge_ctlBase (c : Chan) (s : State) : (disableChan c s).sge.ctlBase = s.sge.ctlBase := rfl
@[simp] theorem disableChan_sge_enable (c : Chan) (s : State) : (disableChan c s).sge.enable = clearChan s.sge.enable c := rfl
@[simp] theorem disableChan_sge_altSel (c : Chan) (s : State) : (disableChan c s).sge.altSel = s.sge.altSel := rfl
@[simp] theorem disableChan_sge_req (c : Chan) (s : State) : (disableChan c s).sge.req = s.sge.req := rfl
@[simp] theorem disableChan_sge_done (c : Chan) (s : State) : (disableChan c s).sge.done = s.sge.done := rfl
@[simp] theorem disableChan_sge_doneIm (c : Chan) (s : State) : (disableChan c s).sge.doneIm = s.sge.doneIm := rfl
@[simp] theorem disableChan_sge_err (c : Chan) (s : State) : (disableChan c s).sge.err = s.sge.err := rfl
@[simp] theorem disableChan_sge_rs (c : Chan) (s : State) : (disableChan c s).sge.rs = s.sge.rs := rfl

@[simp] theorem clearRequest_tmr (c : Chan) (s : State) : (clearRequest c s).tmr = s.tmr := rfl
@[simp] theorem clearRequest_adc (c : Chan) (s : State) : (clearRequest c s).adc = s.adc := rfl
@[simp] theorem clearRequest_seq (c : Chan) (s : State) : (clearRequest c s).seq = s.seq := rfl
@[simp] theorem clearRequest_mem (c : Chan) (s : State) : (clearRequest c s).mem = s.mem := rfl
@[simp] theorem clearRequest_blockPage (c : Chan) (s : State) : (clearRequest c s).blockPage = s.blockPage := rfl
@[simp] theorem clearRequest_rdata (c : Chan) (s : State) : (clearRequest c s).rdata = s.rdata := rfl
@[simp] theorem clearRequest_latch (c : Chan) (s : State) : (clearRequest c s).latch = s.latch := rfl
@[simp] theorem clearRequest_env (c : Chan) (s : State) : (clearRequest c s).env = s.env := rfl
@[simp] theorem clearRequest_fault (c : Chan) (s : State) : (clearRequest c s).fault = s.fault := rfl
@[simp] theorem clearRequest_sge_masterEn (c : Chan) (s : State) : (clearRequest c s).sge.masterEn = s.sge.masterEn := rfl
@[simp] theorem clearRequest_sge_ctlBase (c : Chan) (s : State) : (clearRequest c s).sge.ctlBase = s.sge.ctlBase := rfl
@[simp] theorem clearRequest_sge_enable (c : Chan) (s : State) : (clearRequest c s).sge.enable = s.sge.enable := rfl
@[simp] theorem clearRequest_sge_altSel (c : Chan) (s : State) : (clearRequest c s).sge.altSel = s.sge.altSel := rfl
@[simp] theorem clearRequest_sge_req (c : Chan) (s : State) : (clearRequest c s).sge.req = clearChan s.sge.req c := rfl
@[simp] theorem clearRequest_sge_done (c : Chan) (s : State) : (clearRequest c s).sge.done = s.sge.done := rfl
@[simp] theorem clearRequest_sge_doneIm (c : Chan) (s : State) : (clearRequest c s).sge.doneIm = s.sge.doneIm := rfl
@[simp] theorem clearRequest_sge_err (c : Chan) (s : State) : (clearRequest c s).sge.err = s.sge.err := rfl
@[simp] theorem clearRequest_sge_rs (c : Chan) (s : State) : (clearRequest c s).sge.rs = s.sge.rs := rfl

@[simp] theorem selectPrimary_tmr (c : Chan) (s : State) : (selectPrimary c s).tmr = s.tmr := rfl
@[simp] theorem selectPrimary_adc (c : Chan) (s : State) : (selectPrimary c s).adc = s.adc := rfl
@[simp] theorem selectPrimary_seq (c : Chan) (s : State) : (selectPrimary c s).seq = s.seq := rfl
@[simp] theorem selectPrimary_mem (c : Chan) (s : State) : (selectPrimary c s).mem = s.mem := rfl
@[simp] theorem selectPrimary_blockPage (c : Chan) (s : State) : (selectPrimary c s).blockPage = s.blockPage := rfl
@[simp] theorem selectPrimary_rdata (c : Chan) (s : State) : (selectPrimary c s).rdata = s.rdata := rfl
@[simp] theorem selectPrimary_latch (c : Chan) (s : State) : (selectPrimary c s).latch = s.latch := rfl
@[simp] theorem selectPrimary_env (c : Chan) (s : State) : (selectPrimary c s).env = s.env := rfl
@[simp] theorem selectPrimary_fault (c : Chan) (s : State) : (selectPrimary c s).fault = s.fault := rfl
@[simp] theorem selectPrimary_sge_masterEn (c : Chan) (s : State) : (selectPrimary c s).sge.masterEn = s.sge.masterEn := rfl
@[simp] theorem selectPrimary_sge_ctlBase (c : Chan) (s : State) : (selectPrimary c s).sge.ctlBase = s.sge.ctlBase := rfl
@[simp] theorem selectPrimary_sge_enable (c : Chan) (s : State) : (selectPrimary c s).sge.enable = s.sge.enable := rfl
@[simp] theorem selectPrimary_sge_altSel (c : Chan) (s : State) : (selectPrimary c s).sge.altSel = clearChan s.sge.altSel c := rfl
@[simp] theorem selectPrimary_sge_req (c : Chan) (s : State) : (selectPrimary c s).sge.req = s.sge.req := rfl
@[simp] theorem selectPrimary_sge_done (c : Chan) (s : State) : (selectPrimary c s).sge.done = s.sge.done := rfl
@[simp] theorem selectPrimary_sge_doneIm (c : Chan) (s : State) : (selectPrimary c s).sge.doneIm = s.sge.doneIm := rfl
@[simp] theorem selectPrimary_sge_err (c : Chan) (s : State) : (selectPrimary c s).sge.err = s.sge.err := rfl
@[simp] theorem selectPrimary_sge_rs (c : Chan) (s : State) : (selectPrimary c s).sge.rs = s.sge.rs := rfl

@[simp] theorem selectAlternate_tmr (c : Chan) (s : State) : (selectAlternate c s).tmr = s.tmr := rfl
@[simp] theorem selectAlternate_adc (c : Chan) (s : State) : (selectAlternate c s).adc = s.adc := rfl
@[simp] theorem selectAlternate_seq (c : Chan) (s : State) : (selectAlternate c s).seq = s.seq := rfl
@[simp] theorem selectAlternate_mem (c : Chan) (s : State) : (selectAlternate c s).mem = s.mem := rfl
@[simp] theorem selectAlternate_blockPage (c : Chan) (s : State) : (selectAlternate c s).blockPage = s.blockPage := rfl
@[simp] theorem selectAlternate_rdata (c : Chan) (s : State) : (selectAlternate c s).rdata = s.rdata := rfl
@[simp] theorem selectAlternate_latch (c : Chan) (s : State) : (selectAlternate c s).latch = s.latch := rfl
@[simp] theorem selectAlternate_env (c : Chan) (s : State) : (selectAlternate c s).env = s.env := rfl
@[simp] theorem selectAlternate_fault (c : Chan) (s : State) : (selectAlternate c s).fault = s.fault := rfl
@[simp] theorem selectAlternate_sge_masterEn (c : Chan) (s : State) : (selectAlternate c s).sge.masterEn = s.sge.masterEn := rfl
@[simp] theorem selectAlternate_sge_ctlBase (c : Chan) (s : State) : (selectAlternate c s).sge.ctlBase = s.sge.ctlBase := rfl
@[simp] theorem selectAlternate_sge_enable (c : Chan) (s : State) : (selectAlternate c s).sge.enable = s.sge.enable := rfl
@[simp] theorem selectAlternate_sge_altSel (c : Chan) (s : State) : (selectAlternate c s).sge.altSel = setChan s.sge.altSel c := rfl
@[simp] theorem selectAlternate_sge_req (c : Chan) (s : State) : (selectAlternate c s).sge.req = s.sge.req := rfl
@[simp] theorem selectAlternate_sge_done (c : Chan) (s : State) : (selectAlternate c s).sge.done = s.sge.done := rfl
@[simp] theorem selectAlternate_sge_doneIm (c : Chan) (s : State) : (selectAlternate c s).sge.doneIm = s.sge.doneIm := rfl
@[simp] theorem selectAlternate_sge_err (c : Chan) (s : State) : (selectAlternate c s).sge.err = s.sge.err := rfl
@[simp] theorem selectAlternate_sge_rs (c : Chan) (s : State) : (selectAlternate c s).sge.rs = s.sge.rs := rfl

@[simp] theorem setErr_tmr (s : State) : (setErr s).tmr = s.tmr := rfl
@[simp] theorem setErr_adc (s : State) : (setErr s).adc = s.adc := rfl
@[simp] theorem setErr_seq (s : State) : (setErr s).seq = s.seq := rfl
@[simp] theorem setErr_mem (s : State) : (setErr s).mem = s.mem := rfl
@[simp] theorem setErr_blockPage (s : State) : (setErr s).blockPage = s.blockPage := rfl
@[simp] theorem setErr_rdata (s : State) : (setErr s).rdata = s.rdata := rfl
@[simp] theorem setErr_latch (s : State) : (setErr s).latch = s.latch := rfl
@[simp] theorem setErr_env (s : State) : (setErr s).env = s.env := rfl
@[simp] theorem setErr_fault (s : State) : (setErr s).fault = s.fault := rfl
@[simp] theorem setErr_sge_masterEn (s : State) : (setErr s).sge.masterEn = s.sge.masterEn := rfl
@[simp] theorem setErr_sge_ctlBase (s : State) : (setErr s).sge.ctlBase = s.sge.ctlBase := rfl
@[simp] theorem setErr_sge_enable (s : State) : (setErr s).sge.enable = s.sge.enable := rfl
@[simp] theorem setErr_sge_altSel (s : State) : (setErr s).sge.altSel = s.sge.altSel := rfl
@[simp] theorem setErr_sge_req (s : State) : (setErr s).sge.req = s.sge.req := rfl
@[simp] theorem setErr_sge_done (s : State) : (setErr s).sge.done = s.sge.done := rfl
@[simp] theorem setErr_sge_doneIm (s : State) : (setErr s).sge.doneIm = s.sge.doneIm := rfl
@[simp] theorem setErr_sge_err (s : State) : (setErr s).sge.err = true := rfl
@[simp] theorem setErr_sge_rs (s : State) : (setErr s).sge.rs = s.sge.rs := rfl

@[simp] theorem setDone_tmr (c : Chan) (s : State) : (setDone c s).tmr = s.tmr := rfl
@[simp] theorem setDone_adc (c : Chan) (s : State) : (setDone c s).adc = s.adc := rfl
@[simp] theorem setDone_seq (c : Chan) (s : State) : (setDone c s).seq = s.seq := rfl
@[simp] theorem setDone_mem (c : Chan) (s : State) : (setDone c s).mem = s.mem := rfl
@[simp] theorem setDone_blockPage (c : Chan) (s : State) : (setDone c s).blockPage = s.blockPage := rfl
@[simp] theorem setDone_rdata (c : Chan) (s : State) : (setDone c s).rdata = s.rdata := rfl
@[simp] theorem setDone_latch (c : Chan) (s : State) : (setDone c s).latch = s.latch := rfl
@[simp] theorem setDone_env (c : Chan) (s : State) : (setDone c s).env = s.env := rfl
@[simp] theorem setDone_fault (c : Chan) (s : State) : (setDone c s).fault = s.fault := rfl
@[simp] theorem setDone_sge_masterEn (c : Chan) (s : State) : (setDone c s).sge.masterEn = s.sge.masterEn := rfl
@[simp] theorem setDone_sge_ctlBase (c : Chan) (s : State) : (setDone c s).sge.ctlBase = s.sge.ctlBase := rfl
@[simp] theorem setDone_sge_enable (c : Chan) (s : State) : (setDone c s).sge.enable = s.sge.enable := rfl
@[simp] theorem setDone_sge_altSel (c : Chan) (s : State) : (setDone c s).sge.altSel = s.sge.altSel := rfl
@[simp] theorem setDone_sge_req (c : Chan) (s : State) : (setDone c s).sge.req = s.sge.req := rfl
@[simp] theorem setDone_sge_done (c : Chan) (s : State) : (setDone c s).sge.done = setChan s.sge.done c := rfl
@[simp] theorem setDone_sge_doneIm (c : Chan) (s : State) : (setDone c s).sge.doneIm = s.sge.doneIm := rfl
@[simp] theorem setDone_sge_err (c : Chan) (s : State) : (setDone c s).sge.err = s.sge.err := rfl
@[simp] theorem setDone_sge_rs (c : Chan) (s : State) : (setDone c s).sge.rs = s.sge.rs := rfl

@[simp] theorem setRis_tmr (b : BitVec 3) (s : State) : (setRis b s).tmr = s.tmr := rfl
@[simp] theorem setRis_seq (b : BitVec 3) (s : State) : (setRis b s).seq = s.seq := rfl
@[simp] theorem setRis_sge (b : BitVec 3) (s : State) : (setRis b s).sge = s.sge := rfl
@[simp] theorem setRis_mem (b : BitVec 3) (s : State) : (setRis b s).mem = s.mem := rfl
@[simp] theorem setRis_blockPage (b : BitVec 3) (s : State) : (setRis b s).blockPage = s.blockPage := rfl
@[simp] theorem setRis_rdata (b : BitVec 3) (s : State) : (setRis b s).rdata = s.rdata := rfl
@[simp] theorem setRis_latch (b : BitVec 3) (s : State) : (setRis b s).latch = s.latch := rfl
@[simp] theorem setRis_env (b : BitVec 3) (s : State) : (setRis b s).env = s.env := rfl
@[simp] theorem setRis_fault (b : BitVec 3) (s : State) : (setRis b s).fault = s.fault := rfl
@[simp] theorem setRis_adc_seqEn (b : BitVec 3) (s : State) : (setRis b s).adc.seqEn = s.adc.seqEn := rfl
@[simp] theorem setRis_adc_dmaEn (b : BitVec 3) (s : State) : (setRis b s).adc.dmaEn = s.adc.dmaEn := rfl
@[simp] theorem setRis_adc_vref (b : BitVec 3) (s : State) : (setRis b s).adc.vref = s.adc.vref := rfl
@[simp] theorem setRis_adc_trig (b : BitVec 3) (s : State) : (setRis b s).adc.trig = s.adc.trig := rfl
@[simp] theorem setRis_adc_ovs (b : BitVec 3) (s : State) : (setRis b s).adc.ovs = s.adc.ovs := rfl
@[simp] theorem setRis_adc_steps (b : BitVec 3) (s : State) : (setRis b s).adc.steps = s.adc.steps := rfl
@[simp] theorem setRis_adc_ris (b : BitVec 3) (s : State) : (setRis b s).adc.ris = s.adc.ris ||| b := rfl
@[simp] theorem setRis_adc_im (b : BitVec 3) (s : State) : (setRis b s).adc.im = s.adc.im := rfl

@[simp] theorem clearRis_tmr (b : BitVec 3) (s : State) : (clearRis b s).tmr = s.tmr := rfl
@[simp] theorem clearRis_seq (b : BitVec 3) (s : State) : (clearRis b s).seq = s.seq := rfl
@[simp] theorem clearRis_sge (b : BitVec 3) (s : State) : (clearRis b s).sge = s.sge := rfl
@[simp] theorem clearRis_mem (b : BitVec 3) (s : State) : (clearRis b s).mem = s.mem := rfl
@[simp] theorem clearRis_blockPage (b : BitVec 3) (s : State) : (clearRis b s).blockPage = s.blockPage := rfl
@[simp] theorem clearRis_rdata (b : BitVec 3) (s : State) : (clearRis b s).rdata = s.rdata := rfl
@[simp] theorem clearRis_latch (b : BitVec 3) (s : State) : (clearRis b s).latch = s.latch := rfl
@[simp] theorem clearRis_env (b : BitVec 3) (s : State) : (clearRis b s).env = s.env := rfl
@[simp] theorem clearRis_fault (b : BitVec 3) (s : State) : (clearRis b s).fault = s.fault := rfl
@[simp] theorem clearRis_adc_seqEn (b : BitVec 3) (s : State) : (clearRis b s).adc.seqEn = s.adc.seqEn := rfl
@[simp] theorem clearRis_adc_dmaEn (b : BitVec 3) (s : State) : (clearRis b s).adc.dmaEn = s.adc.dmaEn := rfl
@[simp] theorem clearRis_adc_vref (b : BitVec 3) (s : State) : (clearRis b s).adc.vref = s.adc.vref := rfl
@[simp] theorem clearRis_adc_trig (b : BitVec 3) (s : State) : (clearRis b s).adc.trig = s.adc.trig := rfl
@[simp] theorem clearRis_adc_ovs (b : BitVec 3) (s : State) : (clearRis b s).adc.ovs = s.adc.ovs := rfl
@[simp] theorem clearRis_adc_steps (b : BitVec 3) (s : State) : (clearRis b s).adc.steps = s.adc.steps := rfl
@[simp] theorem clearRis_adc_ris (b : BitVec 3) (s : State) : (clearRis b s).adc.ris = s.adc.ris &&& ~~~ b := rfl
@[simp] theorem clearRis_adc_im (b : BitVec 3) (s : State) : (clearRis b s).adc.im = s.adc.im := rfl

@[simp] theorem countDraw_tmr (s : State) : (countDraw s).tmr = s.tmr := rfl
@[simp] theorem countDraw_adc (s : State) : (countDraw s).adc = s.adc := rfl
@[simp] theorem countDraw_seq (s : State) : (countDraw s).seq = s.seq := rfl
@[simp] theorem countDraw_sge (s : State) : (countDraw s).sge = s.sge := rfl
@[simp] theorem countDraw_mem (s : State) : (countDraw s).mem = s.mem := rfl
@[simp] theorem countDraw_blockPage (s : State) : (countDraw s).blockPage = s.blockPage := rfl
@[simp] theorem countDraw_rdata (s : State) : (countDraw s).rdata = s.rdata := rfl
@[simp] theorem countDraw_latch (s : State) : (countDraw s).latch = s.latch := rfl
@[simp] theorem countDraw_fault (s : State) : (countDraw s).fault = s.fault := rfl
@[simp] theorem countDraw_env_script (s : State) : (countDraw s).env.script = s.env.script := rfl
@[simp] theorem countDraw_env_samples (s : State) : (countDraw s).env.samples = s.env.samples := rfl
@[simp] theorem countDraw_env_words (s : State) : (countDraw s).env.words = s.env.words := rfl
@[simp] theorem countDraw_env_responses (s : State) : (countDraw s).env.responses = s.env.responses := rfl
@[simp] theorem countDraw_env_draws (s : State) : (countDraw s).env.draws = s.env.draws + 1 := rfl

@[simp] theorem dropLatch_tmr (s : State) : (dropLatch s).tmr = s.tmr := rfl
@[simp] theorem dropLatch_adc (s : State) : (dropLatch s).adc = s.adc := rfl
@[simp] theorem dropLatch_seq (s : State) : (dropLatch s).seq = s.seq := rfl
@[simp] theorem dropLatch_sge (s : State) : (dropLatch s).sge = s.sge := rfl
@[simp] theorem dropLatch_mem (s : State) : (dropLatch s).mem = s.mem := rfl
@[simp] theorem dropLatch_blockPage (s : State) : (dropLatch s).blockPage = s.blockPage := rfl
@[simp] theorem dropLatch_rdata (s : State) : (dropLatch s).rdata = s.rdata := rfl
@[simp] theorem dropLatch_latch (s : State) : (dropLatch s).latch = SgLatch.empty := rfl
@[simp] theorem dropLatch_env (s : State) : (dropLatch s).env = s.env := rfl
@[simp] theorem dropLatch_fault (s : State) : (dropLatch s).fault = s.fault := rfl

@[simp] theorem scheduleOp_tmr (op : Op) (s : State) : (scheduleOp op s).tmr = s.tmr := rfl
@[simp] theorem scheduleOp_adc (op : Op) (s : State) : (scheduleOp op s).adc = s.adc := rfl
@[simp] theorem scheduleOp_seq (op : Op) (s : State) : (scheduleOp op s).seq = s.seq := rfl
@[simp] theorem scheduleOp_sge (op : Op) (s : State) : (scheduleOp op s).sge = s.sge := rfl
@[simp] theorem scheduleOp_mem (op : Op) (s : State) : (scheduleOp op s).mem = s.mem := rfl
@[simp] theorem scheduleOp_blockPage (op : Op) (s : State) : (scheduleOp op s).blockPage = s.blockPage := rfl
@[simp] theorem scheduleOp_rdata (op : Op) (s : State) : (scheduleOp op s).rdata = s.rdata := rfl
@[simp] theorem scheduleOp_latch (op : Op) (s : State) : (scheduleOp op s).latch = s.latch := rfl
@[simp] theorem scheduleOp_fault (op : Op) (s : State) : (scheduleOp op s).fault = s.fault := rfl
@[simp] theorem scheduleOp_env_script (op : Op) (s : State) : (scheduleOp op s).env.script = op :: s.env.script := rfl
@[simp] theorem scheduleOp_env_samples (op : Op) (s : State) : (scheduleOp op s).env.samples = s.env.samples := rfl
@[simp] theorem scheduleOp_env_words (op : Op) (s : State) : (scheduleOp op s).env.words = s.env.words := rfl
@[simp] theorem scheduleOp_env_responses (op : Op) (s : State) : (scheduleOp op s).env.responses = s.env.responses := rfl
@[simp] theorem scheduleOp_env_draws (op : Op) (s : State) : (scheduleOp op s).env.draws = s.env.draws := rfl

@[simp] theorem scheduleResponses_tmr (oks : List Bool) (s : State) : (scheduleResponses oks s).tmr = s.tmr := rfl
@[simp] theorem scheduleResponses_adc (oks : List Bool) (s : State) : (scheduleResponses oks s).adc = s.adc := rfl
@[simp] theorem scheduleResponses_seq (oks : List Bool) (s : State) : (scheduleResponses oks s).seq = s.seq := rfl
@[simp] theorem scheduleResponses_sge (oks : List Bool) (s : State) : (scheduleResponses oks s).sge = s.sge := rfl
@[simp] theorem scheduleResponses_mem (oks : List Bool) (s : State) : (scheduleResponses oks s).mem = s.mem := rfl
@[simp] theorem scheduleResponses_blockPage (oks : List Bool) (s : State) : (scheduleResponses oks s).blockPage = s.blockPage := rfl
@[simp] theorem scheduleResponses_rdata (oks : List Bool) (s : State) : (scheduleResponses oks s).rdata = s.rdata := rfl
@[simp] theorem scheduleResponses_latch (oks : List Bool) (s : State) : (scheduleResponses oks s).latch = s.latch := rfl
@[simp] theorem scheduleResponses_fault (oks : List Bool) (s : State) : (scheduleResponses oks s).fault = s.fault := rfl
@[simp] theorem scheduleResponses_env_script (oks : List Bool) (s : State) : (scheduleResponses oks s).env.script = s.env.script := rfl
@[simp] theorem scheduleResponses_env_samples (oks : List Bool) (s : State) : (scheduleResponses oks s).env.samples = s.env.samples := rfl
@[simp] theorem scheduleResponses_env_words (oks : List Bool) (s : State) : (scheduleResponses oks s).env.words = s.env.words := rfl
@[simp] theorem scheduleResponses_env_responses (oks : List Bool) (s : State) : (scheduleResponses oks s).env.responses = oks ++ s.env.responses := rfl
@[simp] theorem scheduleResponses_env_draws (oks : List Bool) (s : State) : (scheduleResponses oks s).env.draws = s.env.draws := rfl

end Sys2Proof.Machine
end

