-- ==== Sys2Proof/Laws/Registers.lean ====
section
/-! SUPPORT. What a register access can change, said once, and that it keeps the block's invariant. -/

namespace Sys2Proof.Laws

open Sys2Proof.Machine

theorem outcomeOf_eq_next {r : Except Fault State} {t : State} : outcomeOf r = .next t ↔ r = .ok t := by
  cases r <;> simp [outcomeOf]

/-- A free input changes the environment's inputs and nothing else. -/
theorem drawWord_spec (s : State) : (drawWord s).2 = { s with env := (drawWord s).2.env } := by
  unfold drawWord
  split <;> rfl

theorem drawSample_spec (i : BitVec 4) (s : State) : (drawSample i s).2 = { s with env := (drawSample i s).2.env } := by
  unfold drawSample
  split <;> rfl

theorem drawResponse_spec (a : Word) (size : Size) (k : AccessKind) (s : State) :
    (drawResponse a size k s).2 = { s with env := (drawResponse a size k s).2.env } := by
  unfold drawResponse
  split <;> rfl

theorem nextOp_spec (s : State) : (nextOp s).2 = { s with env := (nextOp s).2.env } := by
  unfold nextOp
  split <;> rfl

theorem drawSum_spec (i : BitVec 4) (n : Nat) (s : State) : (drawSum i n s).2 = { s with env := (drawSum i n s).2.env } := by
  induction n generalizing s with
  | zero => rfl
  | succ n ih =>
    simp only [drawSum]
    rw [ih, drawSample_spec]

/-- What a read of the system bus can change: the FIFO loses its head or UV rises, and free inputs are drawn. -/
def ReadEffect (s t : State) : Prop :=
  ∃ f r e, t = { s with seq := { s.seq with fifo := f }, adc := { s.adc with ris := r }, env := e } ∧
    f.length ≤ s.seq.fifo.length

theorem ReadEffect.refl (s : State) : ReadEffect s s := ⟨s.seq.fifo, s.adc.ris, s.env, rfl, Nat.le_refl _⟩

theorem ReadEffect.trans {s t u : State} (h : ReadEffect s t) (h' : ReadEffect t u) : ReadEffect s u := by
  obtain ⟨f, r, e, rfl, hl⟩ := h
  obtain ⟨f', r', e', rfl, hl'⟩ := h'
  exact ⟨f', r', e', rfl, Nat.le_trans hl' hl⟩

theorem readAdcFifo_effect (s : State) : ReadEffect s (readAdcFifo s).2 := by
  unfold readAdcFifo
  split
  · rename_i v rest h
    exact ⟨rest, s.adc.ris, s.env, rfl, by simp [h]⟩
  · rw [drawWord_spec]
    exact ⟨s.seq.fifo, s.adc.ris ||| bitUV, _, rfl, Nat.le_refl _⟩

theorem regRead_effect (r : Reg) (s : State) : ReadEffect s (regRead r s).2 := by
  cases r <;> first
    | exact ReadEffect.refl s
    | exact readAdcFifo_effect s

theorem sgeRead_effect (s : State) (a : Word) (size : Size) : ReadEffect s (sgeRead s a size).2 := by
  unfold sgeRead
  split
  · split
    · exact regRead_effect _ s
    · exact ReadEffect.refl s
  · show ReadEffect s (drawResponse a size .read s).2
    rw [drawResponse_spec]
    exact ⟨s.seq.fifo, s.adc.ris, _, rfl, Nat.le_refl _⟩

/-- What no register write changes: run states, memory, the window's place, the latch and the model's own fields. -/
def WriteFrame (s t : State) : Prop :=
  t.sge.rs = s.sge.rs ∧ t.mem = s.mem ∧ t.blockPage = s.blockPage ∧ t.latch = s.latch ∧ t.env = s.env ∧
    t.rdata = s.rdata ∧ t.fault = s.fault

theorem latchTrigger_frame (src : BitVec 2) (s : State) : WriteFrame s (latchTrigger src s) := by
  unfold latchTrigger
  split <;> simp [WriteFrame]

theorem requestChans_frame (chans : Word) (s : State) : WriteFrame s (requestChans chans s) := by
  unfold requestChans
  split <;> simp [WriteFrame]

theorem regWrite_frame {r : Reg} {d : Word} {s t : State} (h : regWrite r d s = .ok t) : WriteFrame s t := by
  cases r <;> simp only [regWrite] at h
  case tmrCtl => simp only [writeTmrCtl, raise] at h; split at h <;> cases h; simp [WriteFrame]
  case tmrLoad => simp only [writeTmrLoad, raise] at h; split at h <;> cases h; simp [WriteFrame]
  case adcCtl =>
    simp only [writeAdcCtl, raise] at h
    split at h
    · cases h
    · split at h <;> cases h; simp [WriteFrame]
  case adcStepcfg => simp only [writeAdcStepcfg, raise] at h; split at h <;> cases h; simp [WriteFrame]
  case adcPssi =>
    simp only [writeAdcPssi] at h
    cases h
    split
    · exact latchTrigger_frame _ s
    · simp [WriteFrame]
  case sgCfg => simp only [writeSgCfg, raise] at h; split at h <;> cases h; simp [WriteFrame]
  case sgCtlbase => simp only [writeSgCtlbase, raise] at h; split at h <;> cases h; simp [WriteFrame]
  case sgEnaclr => simp only [writeSgEnaclr, raise] at h; split at h <;> cases h; simp [WriteFrame]
  case sgAltset => simp only [writeSgAltset, raise] at h; split at h <;> cases h; simp [WriteFrame]
  case sgAltclr => simp only [writeSgAltclr, raise] at h; split at h <;> cases h; simp [WriteFrame]
  case sgSwreq => simp only [writeSgSwreq] at h; cases h; exact requestChans_frame _ s
  case sgErrclr => simp only [writeSgErrclr] at h; cases h; split <;> simp [WriteFrame]
  all_goals
    cases h
    simp [WriteFrame]

/-! ### The invariant -/

theorem coreInv_of_readEffect {s t : State} (h : ReadEffect s t) (hi : CoreInv s) : CoreInv t := by
  obtain ⟨f, r, e, rfl, hl⟩ := h
  exact ⟨hi.timer, hi.codes, Nat.le_trans hl hi.fifo, hi.sequence, hi.pending, hi.table, hi.one, hi.enabled, hi.budget,
    hi.memory⟩

theorem coreInv_latchTrigger {src : BitVec 2} {s : State} (hs : src = Config.trigProcessor ∨ src = Config.trigTimer)
    (hi : CoreInv s) : CoreInv (latchTrigger src s) := by
  unfold latchTrigger
  split
  · rename_i h
    exact ⟨hi.timer, hi.codes, hi.fifo, hi.sequence, fun _ => ⟨h.1, by simpa [h.2] using hs⟩, hi.table, hi.one, hi.enabled,
      hi.budget, hi.memory⟩
  · exact hi

theorem coreInv_requestChans (chans : Word) {s : State} (hi : CoreInv s) : CoreInv (requestChans chans s) := by
  unfold requestChans
  split
  · exact ⟨hi.timer, hi.codes, hi.fifo, hi.sequence, hi.pending, hi.table, hi.one, hi.enabled, hi.budget, hi.memory⟩
  · exact hi

theorem coreInv_setRis (b : BitVec 3) {s : State} (hi : CoreInv s) : CoreInv (setRis b s) :=
  ⟨hi.timer, hi.codes, hi.fifo, hi.sequence, hi.pending, hi.table, hi.one, hi.enabled, hi.budget, hi.memory⟩

theorem coreInv_clearRis (b : BitVec 3) {s : State} (hi : CoreInv s) : CoreInv (clearRis b s) :=
  ⟨hi.timer, hi.codes, hi.fifo, hi.sequence, hi.pending, hi.table, hi.one, hi.enabled, hi.budget, hi.memory⟩

theorem coreInv_setErr {s : State} (hi : CoreInv s) : CoreInv (setErr s) :=
  ⟨hi.timer, hi.codes, hi.fifo, hi.sequence, hi.pending, hi.table, hi.one, hi.enabled, hi.budget, hi.memory⟩

theorem coreInv_setDone (c : Chan) {s : State} (hi : CoreInv s) : CoreInv (setDone c s) :=
  ⟨hi.timer, hi.codes, hi.fifo, hi.sequence, hi.pending, hi.table, hi.one, hi.enabled, hi.budget, hi.memory⟩

theorem coreInv_writeTmrCtl {d : Word} {s t : State} (h : writeTmrCtl d s = .ok t) (hi : CoreInv s) : CoreInv t := by
  simp only [writeTmrCtl, raise] at h
  split at h
  · cases h
  · rename_i hg
    cases h
    refine ⟨?_, hi.codes, hi.fifo, hi.sequence, hi.pending, hi.table, hi.one, hi.enabled, hi.budget, hi.memory⟩
    intro ⟨h1, h2, h3⟩
    simp only at h1 h2 h3
    simp [h1, h2, h3] at hg

theorem coreInv_writeTmrLoad {d : Word} {s t : State} (h : writeTmrLoad d s = .ok t) (hi : CoreInv s) : CoreInv t := by
  simp only [writeTmrLoad, raise] at h
  split at h
  · cases h
  · rename_i hg
    cases h
    refine ⟨?_, hi.codes, hi.fifo, hi.sequence, hi.pending, hi.table, hi.one, hi.enabled, hi.budget, hi.memory⟩
    intro ⟨h1, h2, h3⟩
    simp only at h1 h2 h3
    simp [h1, h2, h3] at hg

theorem coreInv_writeAdcCtl {d : Word} {s t : State} (h : writeAdcCtl d s = .ok t) (hi : CoreInv s) : CoreInv t := by
  simp only [writeAdcCtl, raise] at h
  split at h
  · cases h
  · rename_i hcode
    split at h
    · cases h
    · rename_i hbusy
      cases h
      simp only [Bool.or_eq_true, beq_iff_eq, not_or] at hcode
      refine ⟨hi.timer, hcode, ?_, ?_, fun hp => by simp at hp, hi.table, hi.one, hi.enabled, hi.budget, hi.memory⟩
      · show (if s.seq.busy = true then _ else s.seq).fifo.length ≤ _
        split <;> exact hi.fifo
      · constructor
        · intro hb
          exfalso
          simp only at hb
          split at hb <;> simp_all
        · intro _
          simp only
          split
          · rfl
          · rename_i hnb
            exact hi.sequence.2 (by simpa using hnb)

theorem coreInv_writeAdcStepcfg {d : Word} {s t : State} (h : writeAdcStepcfg d s = .ok t) (hi : CoreInv s) :
    CoreInv t := by
  simp only [writeAdcStepcfg, raise] at h
  split at h
  · cases h
  · rename_i hb
    cases h
    exact ⟨hi.timer, hi.codes, hi.fifo, ⟨fun h => absurd h hb, hi.sequence.2⟩, hi.pending, hi.table, hi.one, hi.enabled,
      hi.budget, hi.memory⟩

theorem coreInv_writeSgCfg {d : Word} {s t : State} (h : writeSgCfg d s = .ok t) (hi : CoreInv s) : CoreInv t := by
  simp only [writeSgCfg, raise] at h
  split at h
  · cases h
  · rename_i hg
    cases h
    refine ⟨hi.timer, hi.codes, hi.fifo, hi.sequence, hi.pending, hi.table, hi.one, fun c hc => ⟨?_, (hi.enabled c hc).2⟩,
      hi.budget, hi.memory⟩
    show d.getLsbD 0 = true
    cases hd : d.getLsbD 0
    · exfalso
      apply hg
      have hz : activeVector s.sge ≠ 0#32 := fun hz => by
        have hc' : (s.sge.rs[c]).isActive = true := hc
        rw [(activeVector_eq_zero s.sge).1 hz c] at hc'
        cases hc'
      rw [hd]
      simp [hz]
    · rfl

theorem coreInv_writeSgCtlbase {d : Word} {s t : State} (h : writeSgCtlbase d s = .ok t) (hi : CoreInv s) : CoreInv t := by
  simp only [writeSgCtlbase, raise] at h
  split at h
  · cases h
  · cases h
    refine ⟨hi.timer, hi.codes, hi.fifo, hi.sequence, hi.pending, ?_, hi.one, hi.enabled, hi.budget, hi.memory⟩
    show (d &&& 0xFFFFFC00#32).extractLsb' 0 10 = 0#10
    rw [BitVec.extractLsb'_and]
    exact BitVec.and_zero

theorem coreInv_writeSgEnaset {d : Word} {s t : State} (h : writeSgEnaset d s = .ok t) (hi : CoreInv s) : CoreInv t := by
  cases h
  refine ⟨hi.timer, hi.codes, hi.fifo, hi.sequence, hi.pending, hi.table, hi.one, fun c hc => ⟨(hi.enabled c hc).1, ?_⟩,
    hi.budget, hi.memory⟩
  have := (hi.enabled c hc).2
  simp only [hasChan] at this
  simp [hasChan, this]

theorem coreInv_writeSgEnaclr {d : Word} {s t : State} (h : writeSgEnaclr d s = .ok t) (hi : CoreInv s) : CoreInv t := by
  simp only [writeSgEnaclr, raise] at h
  split at h
  · cases h
  · rename_i hn
    cases h
    refine ⟨hi.timer, hi.codes, hi.fifo, hi.sequence, hi.pending, hi.table, hi.one, fun c hc => ⟨(hi.enabled c hc).1, ?_⟩,
      hi.budget, hi.memory⟩
    have he := (hi.enabled c hc).2
    have hd := namesActive_eq_false (g := s.sge) (by simpa [namesActive] using hn) c hc
    simp only [hasChan] at he hd
    simp only [hasChan, BitVec.getLsbD_and, BitVec.getLsbD_not]
    simp only [he, hd, c.isLt, decide_true]
    rfl

/-- Every register write keeps the invariant. -/
theorem coreInv_regWrite {r : Reg} {d : Word} {s t : State} (h : regWrite r d s = .ok t) (hi : CoreInv s) : CoreInv t := by
  cases r <;> simp only [regWrite] at h
  case tmrCtl => exact coreInv_writeTmrCtl h hi
  case tmrLoad => exact coreInv_writeTmrLoad h hi
  case adcCtl => exact coreInv_writeAdcCtl h hi
  case adcStepcfg => exact coreInv_writeAdcStepcfg h hi
  case adcPssi =>
    simp only [writeAdcPssi] at h
    cases h
    split
    · exact coreInv_latchTrigger (.inl rfl) hi
    · exact hi
  case adcIsc => simp only [writeAdcIsc] at h; cases h; exact coreInv_clearRis _ hi
  case sgCfg => exact coreInv_writeSgCfg h hi
  case sgCtlbase => exact coreInv_writeSgCtlbase h hi
  case sgEnaset => exact coreInv_writeSgEnaset h hi
  case sgEnaclr => exact coreInv_writeSgEnaclr h hi
  case sgAltset =>
    simp only [writeSgAltset, raise] at h
    split at h <;> cases h
    exact ⟨hi.timer, hi.codes, hi.fifo, hi.sequence, hi.pending, hi.table, hi.one, hi.enabled, hi.budget, hi.memory⟩
  case sgAltclr =>
    simp only [writeSgAltclr, raise] at h
    split at h <;> cases h
    exact ⟨hi.timer, hi.codes, hi.fifo, hi.sequence, hi.pending, hi.table, hi.one, hi.enabled, hi.budget, hi.memory⟩
  case sgSwreq => simp only [writeSgSwreq] at h; cases h; exact coreInv_requestChans _ hi
  case sgErrclr =>
    simp only [writeSgErrclr] at h
    cases h
    split
    · exact ⟨hi.timer, hi.codes, hi.fifo, hi.sequence, hi.pending, hi.table, hi.one, hi.enabled, hi.budget, hi.memory⟩
    · exact hi
  all_goals
    cases h
    exact ⟨hi.timer, hi.codes, hi.fifo, hi.sequence, hi.pending, hi.table, hi.one, hi.enabled, hi.budget, hi.memory⟩

end Sys2Proof.Laws
end

