-- ==== Sys2Proof/Laws/Engine.lean ====
section
/-! SUPPORT. What the engine's operations can change, said once, and that its steps keep the block's invariant. -/

namespace Sys2Proof.Laws

open Sys2Proof.Machine

theorem getElem_setRun_self (c : Chan) (r : RunState) (s : State) : (setRun c r s).sge.rs[c] = r := by
  simp [setRun]

theorem getElem_setRun_ne {c d : Chan} (r : RunState) (s : State) (h : c ≠ d) :
    (setRun c r s).sge.rs[d] = s.sge.rs[d] := by
  have : c.val ≠ d.val := fun e => h (Fin.ext e)
  simp [setRun, this]

/-- A write by the SGE master: a register write, an access the bus refuses, or bytes stored in memory. -/
theorem sgeWrite_cases {s t : State} {a : Word} {size : Size} {v : Word} {ok : Bool}
    (h : sgeWrite s a size v = .ok (ok, t)) :
    (∃ r, regWrite r v s = .ok t) ∨ (∃ e, t = { s with env := e }) ∨
      (∃ e, t = { s with env := e, mem := memWrite s.mem a size v }) := by
  unfold sgeWrite at h
  split at h
  · split at h
    · rename_i r _
      refine .inl ⟨r, ?_⟩
      cases hr : regWrite r v s with
      | error e => rw [hr] at h; cases h
      | ok u => rw [hr] at h; cases h; rfl
    · cases h
      exact .inr (.inl ⟨s.env, rfl⟩)
  · refine .inr ?_
    simp only at h
    generalize hd : drawResponse a size .write s = d at h
    have hspec := drawResponse_spec a size .write s
    rw [hd] at hspec
    obtain ⟨o, u⟩ := d
    simp only at h hspec
    cases o
    · cases h
      exact .inl ⟨u.env, hspec⟩
    · cases h
      refine .inr ⟨u.env, ?_⟩
      have hm : u.mem = s.mem := by rw [hspec]
      simp only [if_true]
      rw [hm]
      conv => lhs; rw [hspec]

/-- A write by the SGE master leaves the run states, the latch and the model's own fields alone. -/
theorem sgeWrite_frame {s t : State} {a : Word} {size : Size} {v : Word} {ok : Bool}
    (h : sgeWrite s a size v = .ok (ok, t)) :
    t.sge.rs = s.sge.rs ∧ t.latch = s.latch ∧ t.blockPage = s.blockPage ∧ t.rdata = s.rdata ∧ t.fault = s.fault := by
  rcases sgeWrite_cases h with ⟨r, hr⟩ | ⟨e, rfl⟩ | ⟨e, rfl⟩
  · obtain ⟨h1, _, h3, h4, _, h6, h7⟩ := regWrite_frame hr
    exact ⟨h1, h4, h3, h6, h7⟩
  · exact ⟨rfl, rfl, rfl, rfl, rfl⟩
  · exact ⟨rfl, rfl, rfl, rfl, rfl⟩

theorem coreInv_sgeWrite {s t : State} {a : Word} {size : Size} {v : Word} {ok : Bool}
    (h : sgeWrite s a size v = .ok (ok, t)) (hi : CoreInv s) : CoreInv t := by
  rcases sgeWrite_cases h with ⟨r, hr⟩ | ⟨e, rfl⟩ | ⟨e, rfl⟩
  · exact coreInv_regWrite hr hi
  · exact ⟨hi.timer, hi.codes, hi.fifo, hi.sequence, hi.pending, hi.table, hi.one, hi.enabled, hi.budget, hi.memory⟩
  · exact ⟨hi.timer, hi.codes, hi.fifo, hi.sequence, hi.pending, hi.table, hi.one, hi.enabled, hi.budget,
      memWf_memWrite a size v hi.memory⟩

theorem readEffect_sge {s t : State} (h : ReadEffect s t) : t.sge = s.sge := by
  obtain ⟨f, r, e, rfl, _⟩ := h
  rfl

theorem readEffect_latch {s t : State} (h : ReadEffect s t) : t.latch = s.latch := by
  obtain ⟨f, r, e, rfl, _⟩ := h
  rfl

/-! ### Run states -/

/-- Ending channel c's run keeps the invariant. -/
theorem coreInv_setRun_idle (c : Chan) {s : State} (hi : CoreInv s) : CoreInv (setRun c .idle s) := by
  have act : ∀ d : Chan, ((setRun c .idle s).sge.rs[d]).isActive = true → (s.sge.rs[d]).isActive = true := by
    intro d hd
    by_cases h : c = d
    · subst h
      rw [getElem_setRun_self] at hd
      cases hd
    · rwa [getElem_setRun_ne _ _ h] at hd
  refine ⟨hi.timer, hi.codes, hi.fifo, hi.sequence, hi.pending, hi.table, fun d e hd he => hi.one d e (act d hd) (act e he),
    fun d hd => hi.enabled d (act d hd), ?_, hi.memory⟩
  intro d n ch hd
  by_cases h : c = d
  · subst h
    rw [getElem_setRun_self] at hd
    cases hd
  · rw [getElem_setRun_ne _ _ h] at hd
    exact hi.budget d n ch hd

/-- A channel may be served when the controller and the channel are enabled and no other channel is served. -/
theorem coreInv_setRun_active {c : Chan} {b : Budget} {chain : Bool} {s : State} (hi : CoreInv s)
    (hm : s.sge.masterEn = true) (he : hasChan s.sge.enable c = true)
    (ho : ∀ d : Chan, (s.sge.rs[d]).isActive = true → d = c) (hb : ∀ n, b = .elems n → 0 < n) :
    CoreInv (setRun c (.active b chain) s) := by
  have act : ∀ d : Chan, ((setRun c (.active b chain) s).sge.rs[d]).isActive = true → d = c := by
    intro d hd
    by_cases h : c = d
    · exact h.symm
    · rw [getElem_setRun_ne _ _ h] at hd
      exact ho d hd
  refine ⟨hi.timer, hi.codes, hi.fifo, hi.sequence, hi.pending, hi.table, fun d e hd he => (act d hd).trans (act e he).symm,
    fun d hd => ⟨hm, by rw [act d hd]; exact he⟩, ?_, hi.memory⟩
  intro d n ch hd
  by_cases h : c = d
  · subst h
    rw [getElem_setRun_self] at hd
    cases hd
    exact hb n rfl
  · rw [getElem_setRun_ne _ _ h] at hd
    exact hi.budget d n ch hd

theorem coreInv_selectPrimary (c : Chan) {s : State} (hi : CoreInv s) : CoreInv (selectPrimary c s) :=
  ⟨hi.timer, hi.codes, hi.fifo, hi.sequence, hi.pending, hi.table, hi.one, hi.enabled, hi.budget, hi.memory⟩

theorem coreInv_selectAlternate (c : Chan) {s : State} (hi : CoreInv s) : CoreInv (selectAlternate c s) :=
  ⟨hi.timer, hi.codes, hi.fifo, hi.sequence, hi.pending, hi.table, hi.one, hi.enabled, hi.budget, hi.memory⟩

theorem coreInv_clearRequest (c : Chan) {s : State} (hi : CoreInv s) : CoreInv (clearRequest c s) :=
  ⟨hi.timer, hi.codes, hi.fifo, hi.sequence, hi.pending, hi.table, hi.one, hi.enabled, hi.budget, hi.memory⟩

/-- Disabling a channel that is not served keeps the invariant. -/
theorem coreInv_disableChan {c : Chan} {s : State} (hc : (s.sge.rs[c]).isActive = false) (hi : CoreInv s) :
    CoreInv (disableChan c s) := by
  refine ⟨hi.timer, hi.codes, hi.fifo, hi.sequence, hi.pending, hi.table, hi.one, fun d hd => ⟨(hi.enabled d hd).1, ?_⟩,
    hi.budget, hi.memory⟩
  have hd' : (s.sge.rs[d]).isActive = true := hd
  have hne : c ≠ d := by
    intro h
    subst h
    rw [hc] at hd'
    cases hd'
  have := (hi.enabled d hd).2
  simp [disableChan, hne, this]

theorem coreInv_structAbort (c : Chan) {s : State} (hi : CoreInv s) : CoreInv (structAbort c s) := by
  have h1 : CoreInv (setRun c .idle s) := coreInv_setRun_idle c hi
  have h2 : CoreInv (disableChan c (setRun c .idle s)) :=
    coreInv_disableChan (by rw [getElem_setRun_self]; rfl) h1
  exact coreInv_setErr (coreInv_selectPrimary c h2)

theorem coreInv_complete (c : Chan) {s : State} (hi : CoreInv s) : CoreInv (complete c s) := by
  have h1 : CoreInv (selectPrimary c (setRun c .idle s)) := coreInv_selectPrimary c (coreInv_setRun_idle c hi)
  unfold complete
  generalize hu : selectPrimary c (setRun c .idle s) = u at h1
  have hidle : (u.sge.rs[c]).isActive = false := by
    rw [← hu]
    show ((setRun c .idle s).sge.rs[c]).isActive = false
    rw [getElem_setRun_self]
    rfl
  have heff := sgeRead_effect u (priAddr u c + 8#32) .word
  have h2 : CoreInv (sgeRead u (priAddr u c + 8#32) .word).2 := coreInv_of_readEffect heff h1
  have hidle2 : (((sgeRead u (priAddr u c + 8#32) .word).2).sge.rs[c]).isActive = false := by
    rw [readEffect_sge heff]
    exact hidle
  simp only
  split
  · rename_i s2 hs
    rw [hs] at h2 hidle2
    exact coreInv_structAbort c h2
  · rename_i p s2 hs
    rw [hs] at h2 hidle2
    split
    · exact coreInv_disableChan (s := setDone c s2) hidle2 (coreInv_setDone c h2)
    · exact coreInv_setDone c h2

/-! ### The steps -/

theorem coreInv_startRun {c : Chan} {m : XferMode} {f : CtlFields} {chain : Bool} {s : State} (hi : CoreInv s)
    (hm : s.sge.masterEn = true) (he : hasChan s.sge.enable c = true)
    (ho : ∀ d : Chan, (s.sge.rs[d]).isActive = true → d = c) : CoreInv (startRun c m f chain s) := by
  unfold startRun
  split
  · exact coreInv_setRun_active hi hm he ho fun n hn => by
      cases hn
      exact Nat.pow_pos (by decide)
  · exact coreInv_setRun_active hi hm he ho fun n hn => by cases hn

theorem coreInv_sgAccept {m : XferMode} {f : CtlFields} {s t : State} (h : sgAccept m f s = .ok t) (hi : CoreInv s)
    (hm : s.sge.masterEn = true) (he : hasChan s.sge.enable s.latch.chan = true)
    (ho : ∀ d : Chan, (s.sge.rs[d]).isActive = false) : CoreInv t := by
  have h1 : CoreInv (clearRequest s.latch.chan s) := coreInv_clearRequest _ hi
  unfold sgAccept at h
  simp only at h
  split at h
  · cases h
    exact coreInv_disableChan (ho _) h1
  · split at h
    · cases h
    · cases h
      refine coreInv_startRun h1 hm he fun d hd => ?_
      have hd' : (s.sge.rs[d]).isActive = true := hd
      rw [ho d] at hd'
      cases hd'

/-- The element's move keeps the run states and the latch, and the invariant. -/
theorem moveElement_spec {src dst : Word} {size : Size} {s t : State} (h : moveElement src dst size s = .ok t)
    (hi : CoreInv s) : CoreInv t ∧ t.sge.rs = s.sge.rs ∧ t.latch = s.latch := by
  unfold moveElement at h
  have heff := sgeRead_effect s src size
  generalize sgeRead s src size = r at h heff
  obtain ⟨o, u⟩ := r
  have hu : CoreInv u := coreInv_of_readEffect heff hi
  have hrs : u.sge = s.sge := readEffect_sge heff
  have hl : u.latch = s.latch := readEffect_latch heff
  cases o with
  | none =>
    simp only at h
    cases h
    exact ⟨coreInv_setErr hu, by rw [← hrs]; rfl, hl⟩
  | some v =>
    simp only at h
    split at h
    · cases h
    · rename_i s2 hw
      cases h
      obtain ⟨h1, h2, _⟩ := sgeWrite_frame hw
      exact ⟨coreInv_sgeWrite hw hu, by rw [h1, hrs], by rw [h2, hl]⟩
    · rename_i s2 hw
      cases h
      obtain ⟨h1, h2, _⟩ := sgeWrite_frame hw
      exact ⟨coreInv_setErr (coreInv_sgeWrite hw hu), by show s2.sge.rs = _; rw [h1, hrs], by show s2.latch = _; rw [h2, hl]⟩

theorem coreInv_advance {c : Chan} {isAlt : Bool} {m : XferMode} {f : CtlFields} {b : Budget} {chain : Bool} {s : State}
    (hi : CoreInv s) (hr : s.sge.rs[c] = .active b chain) : CoreInv (advance c isAlt m f b chain s) := by
  have hact : (s.sge.rs[c]).isActive = true := by rw [hr]; rfl
  obtain ⟨hm, he⟩ := hi.enabled c hact
  unfold advance
  split
  · split
    · exact coreInv_selectAlternate c hi
    · exact hi
  · split
    · split
      · exact hi
      · rename_i n
        split
        · exact coreInv_setRun_idle c hi
        · rename_i hn
          have hpos := hi.budget c n chain hr
          exact coreInv_setRun_active hi hm he (fun d hd => hi.one d c hd hact) fun k hk => by
            cases hk
            omega
    · split
      · exact coreInv_selectPrimary c hi
      · exact coreInv_complete c hi

theorem coreInv_sgElement {m : XferMode} {f : CtlFields} {b : Budget} {chain : Bool} {s t : State}
    (h : sgElement m f b chain s = .ok t) (hi : CoreInv s) (hr : s.sge.rs[s.latch.chan] = .active b chain) :
    CoreInv t := by
  unfold sgElement at h
  simp only [raise] at h
  split at h
  · cases h
    exact coreInv_complete _ hi
  · split at h
    · cases h
    · split at h
      · cases h
      · split at h
        · cases h
        · rename_i s1 hmove
          obtain ⟨h1, hrs1, hl1⟩ := moveElement_spec hmove hi
          split at h
          · cases h
          · rename_i s2 hw
            cases h
            exact coreInv_structAbort _ (coreInv_sgeWrite hw h1)
          · rename_i s2 hw
            cases h
            obtain ⟨hrs2, hl2, _⟩ := sgeWrite_frame hw
            refine coreInv_advance (coreInv_sgeWrite hw h1) ?_
            have : s2.sge.rs = s.sge.rs := hrs2.trans hrs1
            simp only [this]
            exact hr

/-- An SGE step on a fetched control word keeps the invariant, when the engine may take it (R151). -/
theorem coreInv_sgServe {m : XferMode} {f : CtlFields} {s t : State} (h : sgServe m f s = .ok t) (hi : CoreInv s)
    (hacc : s.sge.rs[s.latch.chan] = .idle →
      s.sge.masterEn = true ∧ hasChan s.sge.enable s.latch.chan = true ∧ ∀ d : Chan, (s.sge.rs[d]).isActive = false) :
    CoreInv t := by
  unfold sgServe at h
  split at h
  · rename_i hidle
    obtain ⟨h1, h2, h3⟩ := hacc hidle
    exact coreInv_sgAccept h hi h1 h2 h3
  · rename_i b chain hr
    exact coreInv_sgElement h hi hr

end Sys2Proof.Laws
end

