-- ==== Sys2Proof/Laws/Bus.lean ====
section
/-! SUPPORT. What one access of the SGE master does, inside the register window and outside it, and what an answer of the
platform depends on. -/

namespace Sys2Proof.Laws

open Sys2Proof.Machine

/-! ### Addresses of the window (R46) -/

theorem extractLsb'_page (p : BitVec 20) (off : BitVec 12) : (p ++ off : Word).extractLsb' 12 20 = p := by
  apply BitVec.eq_of_getLsbD_eq
  intro i hi
  rw [BitVec.getLsbD_extractLsb', BitVec.getLsbD_append]
  simp [hi]

theorem setWidth_offset (p : BitVec 20) (off : BitVec 12) : (p ++ off : Word).setWidth 12 = off := by
  apply BitVec.eq_of_getLsbD_eq
  intro i hi
  rw [BitVec.getLsbD_setWidth, BitVec.getLsbD_append]
  simp [hi]

theorem inWindow_windowAddr (s : State) (off : BitVec 12) : inWindow s (windowAddr s off) = true := by
  rw [inWindow, windowAddr, extractLsb'_page, beq_self_eq_true]

theorem inWindow_eq_false {s : State} {a : Word} (h : a.extractLsb' 12 20 ≠ s.blockPage) : inWindow s a = false := by
  rw [inWindow, beq_eq_false_iff_ne]
  exact h

theorem windowReg_windowAddr (s : State) (off : BitVec 12) : windowReg (windowAddr s off) .word = regAt off := by
  rw [windowReg, if_pos rfl, windowAddr, setWidth_offset]

/-! ### Accesses of the window (R56, R57) -/

/-- A word read of the window is a register read, with its side effect, or an error response. -/
theorem sgeRead_windowAddr (s : State) (off : BitVec 12) :
    sgeRead s (windowAddr s off) .word =
      match regAt off with
      | some r => (some (regRead r s).1, (regRead r s).2)
      | none => (none, s) := by
  unfold sgeRead
  rw [inWindow_windowAddr, windowReg_windowAddr]
  cases regAt off <;> rfl

/-- A word write of the window is a register write, with the fault its rule raises, or an error response. -/
theorem sgeWrite_windowAddr (s : State) (off : BitVec 12) (v : Word) :
    sgeWrite s (windowAddr s off) .word v =
      match regAt off with
      | some r => (regWrite r v s).map fun t => (true, t)
      | none => .ok (false, s) := by
  unfold sgeWrite
  rw [inWindow_windowAddr, windowReg_windowAddr]
  cases regAt off <;> rfl

/-- A narrower access of the window is an error response. -/
theorem sgeRead_narrow (s : State) (off : BitVec 12) {size : Size} (h : size ≠ .word) :
    sgeRead s (windowAddr s off) size = (none, s) := by
  unfold sgeRead
  rw [inWindow_windowAddr, windowReg, if_neg h]
  rfl

/-! ### Accesses outside the window (R58) -/

/-- A read outside the window: the platform's answer, the bytes of memory on ok, and nothing changed but the environment. -/
theorem sgeRead_outside {s : State} {a : Word} (size : Size) (h : a.extractLsb' 12 20 ≠ s.blockPage) :
    sgeRead s a size =
      (if (drawResponse a size .read s).1 then some (memRead s.mem a size) else none,
        { s with env := (drawResponse a size .read s).2.env }) := by
  have hd := drawResponse_spec a size .read s
  have hm : (drawResponse a size .read s).2.mem = s.mem := by rw [hd]
  unfold sgeRead
  rw [inWindow_eq_false h]
  simp only [Bool.false_eq_true, if_false, hm]
  rw [← hd]

/-- A write outside the window: the platform's answer, and the bytes stored on ok only. -/
theorem sgeWrite_outside {s : State} {a : Word} (size : Size) (v : Word) (h : a.extractLsb' 12 20 ≠ s.blockPage) :
    sgeWrite s a size v =
      .ok ((drawResponse a size .write s).1,
        { s with env := (drawResponse a size .write s).2.env,
                 mem := if (drawResponse a size .write s).1 then memWrite s.mem a size v else s.mem }) := by
  have hd := drawResponse_spec a size .write s
  have hm : (drawResponse a size .write s).2.mem = s.mem := by rw [hd]
  unfold sgeWrite
  rw [inWindow_eq_false h]
  simp only [Bool.false_eq_true, if_false, hm]
  cases (drawResponse a size .write s).1
  · simp only [Bool.false_eq_true, if_false]
    rw [← hd]
  · simp only [if_true]
    rw [hd]

/-- The platform's answer depends on the access and on the environment alone. -/
theorem drawResponse_env (a : Word) (size : Size) (k : AccessKind) {s t : State} (h : s.env = t.env) :
    (drawResponse a size k s).1 = (drawResponse a size k t).1 ∧
      (drawResponse a size k s).2.env = (drawResponse a size k t).2.env := by
  unfold drawResponse
  rw [h]
  cases t.env.responses <;> simp [countDraw, h]

/-! ### Channels named by a write (R129, R135, R137, R139) -/

theorem isActive_iff (r : RunState) : r.isActive = true ↔ r ≠ .idle := by
  cases r <;> simp [RunState.isActive]

theorem namesActive_iff (chans : Word) (s : State) :
    namesActive chans s = true ↔ ∃ c : Chan, hasChan chans c = true ∧ s.sge.rs[c] ≠ .idle := by
  have hz : (chans &&& activeVector s.sge) = 0#32 ↔
      ∀ c : Chan, ¬ (hasChan chans c = true ∧ (s.sge.rs[c]).isActive = true) := by
    constructor
    · intro h c hc
      have := namesActive_eq_false h c hc.2
      rw [hc.1] at this
      cases this
    · intro h
      apply eq_zero_of_chans
      intro c
      have hc := h c
      rw [← hasChan_activeVector] at hc
      simp only [hasChan, BitVec.getLsbD_and] at hc ⊢
      simpa using hc
  rw [namesActive, bne_iff_ne, Ne, hz]
  simp only [Classical.not_forall, Classical.not_not, isActive_iff]

end Sys2Proof.Laws
end

