-- ==== Sys2Proof/Laws/PerInstr.lean ====
section
/-! SUPPORT. Statements made for every instruction, one lemma per constructor. -/

namespace Sys2Proof.Laws

/-- Decoding the bytes of a well-formed instruction gives the instruction back and leaves what followed it. -/
def EncodeDecode.Statement (i : Instr) : Prop :=
  wellFormed i = true → ∀ rest, decode (sourceOf i) (encode i ++ rest) = .ok (i, rest)

theorem EncodeDecode.rdTmrCtl : EncodeDecode.Statement .rdTmrCtl :=
  fun _ rest => decode_readTxn .tmrCtl rest

theorem EncodeDecode.wrTmrCtl (data : Word) : EncodeDecode.Statement (.wrTmrCtl data) :=
  fun _ rest => decode_writeTxn .tmrCtl data rest

theorem EncodeDecode.rdTmrLoad : EncodeDecode.Statement .rdTmrLoad :=
  fun _ rest => decode_readTxn .tmrLoad rest

theorem EncodeDecode.wrTmrLoad (data : Word) : EncodeDecode.Statement (.wrTmrLoad data) :=
  fun _ rest => decode_writeTxn .tmrLoad data rest

theorem EncodeDecode.rdTmrValue : EncodeDecode.Statement .rdTmrValue :=
  fun _ rest => decode_readTxn .tmrValue rest

theorem EncodeDecode.wrTmrValue (data : Word) : EncodeDecode.Statement (.wrTmrValue data) :=
  fun _ rest => decode_writeTxn .tmrValue data rest

theorem EncodeDecode.rdAdcCtl : EncodeDecode.Statement .rdAdcCtl :=
  fun _ rest => decode_readTxn .adcCtl rest

theorem EncodeDecode.wrAdcCtl (data : Word) : EncodeDecode.Statement (.wrAdcCtl data) :=
  fun _ rest => decode_writeTxn .adcCtl data rest

theorem EncodeDecode.rdAdcStepcfg : EncodeDecode.Statement .rdAdcStepcfg :=
  fun _ rest => decode_readTxn .adcStepcfg rest

theorem EncodeDecode.wrAdcStepcfg (data : Word) : EncodeDecode.Statement (.wrAdcStepcfg data) :=
  fun _ rest => decode_writeTxn .adcStepcfg data rest

theorem EncodeDecode.rdAdcPssi : EncodeDecode.Statement .rdAdcPssi :=
  fun _ rest => decode_readTxn .adcPssi rest

theorem EncodeDecode.wrAdcPssi (data : Word) : EncodeDecode.Statement (.wrAdcPssi data) :=
  fun _ rest => decode_writeTxn .adcPssi data rest

theorem EncodeDecode.rdAdcRis : EncodeDecode.Statement .rdAdcRis :=
  fun _ rest => decode_readTxn .adcRis rest

theorem EncodeDecode.wrAdcRis (data : Word) : EncodeDecode.Statement (.wrAdcRis data) :=
  fun _ rest => decode_writeTxn .adcRis data rest

theorem EncodeDecode.rdAdcIm : EncodeDecode.Statement .rdAdcIm :=
  fun _ rest => decode_readTxn .adcIm rest

theorem EncodeDecode.wrAdcIm (data : Word) : EncodeDecode.Statement (.wrAdcIm data) :=
  fun _ rest => decode_writeTxn .adcIm data rest

theorem EncodeDecode.rdAdcIsc : EncodeDecode.Statement .rdAdcIsc :=
  fun _ rest => decode_readTxn .adcIsc rest

theorem EncodeDecode.wrAdcIsc (data : Word) : EncodeDecode.Statement (.wrAdcIsc data) :=
  fun _ rest => decode_writeTxn .adcIsc data rest

theorem EncodeDecode.rdAdcFifo : EncodeDecode.Statement .rdAdcFifo :=
  fun _ rest => decode_readTxn .adcFifo rest

theorem EncodeDecode.wrAdcFifo (data : Word) : EncodeDecode.Statement (.wrAdcFifo data) :=
  fun _ rest => decode_writeTxn .adcFifo data rest

theorem EncodeDecode.rdAdcFstat : EncodeDecode.Statement .rdAdcFstat :=
  fun _ rest => decode_readTxn .adcFstat rest

theorem EncodeDecode.wrAdcFstat (data : Word) : EncodeDecode.Statement (.wrAdcFstat data) :=
  fun _ rest => decode_writeTxn .adcFstat data rest

theorem EncodeDecode.rdSgCfg : EncodeDecode.Statement .rdSgCfg :=
  fun _ rest => decode_readTxn .sgCfg rest

theorem EncodeDecode.wrSgCfg (data : Word) : EncodeDecode.Statement (.wrSgCfg data) :=
  fun _ rest => decode_writeTxn .sgCfg data rest

theorem EncodeDecode.rdSgCtlbase : EncodeDecode.Statement .rdSgCtlbase :=
  fun _ rest => decode_readTxn .sgCtlbase rest

theorem EncodeDecode.wrSgCtlbase (data : Word) : EncodeDecode.Statement (.wrSgCtlbase data) :=
  fun _ rest => decode_writeTxn .sgCtlbase data rest

theorem EncodeDecode.rdSgEnaset : EncodeDecode.Statement .rdSgEnaset :=
  fun _ rest => decode_readTxn .sgEnaset rest

theorem EncodeDecode.wrSgEnaset (data : Word) : EncodeDecode.Statement (.wrSgEnaset data) :=
  fun _ rest => decode_writeTxn .sgEnaset data rest

theorem EncodeDecode.rdSgEnaclr : EncodeDecode.Statement .rdSgEnaclr :=
  fun _ rest => decode_readTxn .sgEnaclr rest

theorem EncodeDecode.wrSgEnaclr (data : Word) : EncodeDecode.Statement (.wrSgEnaclr data) :=
  fun _ rest => decode_writeTxn .sgEnaclr data rest

theorem EncodeDecode.rdSgAltset : EncodeDecode.Statement .rdSgAltset :=
  fun _ rest => decode_readTxn .sgAltset rest

theorem EncodeDecode.wrSgAltset (data : Word) : EncodeDecode.Statement (.wrSgAltset data) :=
  fun _ rest => decode_writeTxn .sgAltset data rest

theorem EncodeDecode.rdSgAltclr : EncodeDecode.Statement .rdSgAltclr :=
  fun _ rest => decode_readTxn .sgAltclr rest

theorem EncodeDecode.wrSgAltclr (data : Word) : EncodeDecode.Statement (.wrSgAltclr data) :=
  fun _ rest => decode_writeTxn .sgAltclr data rest

theorem EncodeDecode.rdSgSwreq : EncodeDecode.Statement .rdSgSwreq :=
  fun _ rest => decode_readTxn .sgSwreq rest

theorem EncodeDecode.wrSgSwreq (data : Word) : EncodeDecode.Statement (.wrSgSwreq data) :=
  fun _ rest => decode_writeTxn .sgSwreq data rest

theorem EncodeDecode.rdSgErrclr : EncodeDecode.Statement .rdSgErrclr :=
  fun _ rest => decode_readTxn .sgErrclr rest

theorem EncodeDecode.wrSgErrclr (data : Word) : EncodeDecode.Statement (.wrSgErrclr data) :=
  fun _ rest => decode_writeTxn .sgErrclr data rest

theorem EncodeDecode.rdSgDone : EncodeDecode.Statement .rdSgDone :=
  fun _ rest => decode_readTxn .sgDone rest

theorem EncodeDecode.wrSgDone (data : Word) : EncodeDecode.Statement (.wrSgDone data) :=
  fun _ rest => decode_writeTxn .sgDone data rest

theorem EncodeDecode.rdSgDoneim : EncodeDecode.Statement .rdSgDoneim :=
  fun _ rest => decode_readTxn .sgDoneim rest

theorem EncodeDecode.wrSgDoneim (data : Word) : EncodeDecode.Statement (.wrSgDoneim data) :=
  fun _ rest => decode_writeTxn .sgDoneim data rest

theorem EncodeDecode.rdSgActive : EncodeDecode.Statement .rdSgActive :=
  fun _ rest => decode_readTxn .sgActive rest

theorem EncodeDecode.wrSgActive (data : Word) : EncodeDecode.Statement (.wrSgActive data) :=
  fun _ rest => decode_writeTxn .sgActive data rest

theorem EncodeDecode.busErr (width : Nat) (tw : TxnWord) (data : Word) :
    EncodeDecode.Statement (.busErr width tw data) := by
  intro h rest
  simp only [wellFormed, Bool.and_eq_true, dataOnlyWithWrite, Bool.or_eq_true, beq_iff_eq] at h
  have hd : (if isWriteTxn tw = true then data else 0#32) = data := by
    rcases h.2 with hw | hz
    · rw [if_pos hw]
    · rw [hz]; split <;> rfl
  show decode (.regTxn width) (txnBytes tw data ++ rest) = _
  rw [decode_txnBytes, hd, txnInstr_busErr data h.1]

theorem EncodeDecode.sgctlStop (f : CtlFields) : EncodeDecode.Statement (.sgctlStop f) :=
  fun _ rest => decode_ctlWord .stop f rest

theorem EncodeDecode.sgctlBasic (f : CtlFields) : EncodeDecode.Statement (.sgctlBasic f) :=
  fun _ rest => decode_ctlWord .basic f rest

theorem EncodeDecode.sgctlAuto (f : CtlFields) : EncodeDecode.Statement (.sgctlAuto f) :=
  fun _ rest => decode_ctlWord .auto f rest

theorem EncodeDecode.sgctlRsvd3 (f : CtlFields) : EncodeDecode.Statement (.sgctlRsvd3 f) :=
  fun _ rest => decode_ctlWord .rsvd3 f rest

theorem EncodeDecode.sgctlMemSg (f : CtlFields) : EncodeDecode.Statement (.sgctlMemSg f) :=
  fun _ rest => decode_ctlWord .memSg f rest

theorem EncodeDecode.sgctlAltSg (f : CtlFields) : EncodeDecode.Statement (.sgctlAltSg f) :=
  fun _ rest => decode_ctlWord .altSg f rest

theorem EncodeDecode.sgctlRsvd6 (f : CtlFields) : EncodeDecode.Statement (.sgctlRsvd6 f) :=
  fun _ rest => decode_ctlWord .rsvd6 f rest

theorem EncodeDecode.sgctlRsvd7 (f : CtlFields) : EncodeDecode.Statement (.sgctlRsvd7 f) :=
  fun _ rest => decode_ctlWord .rsvd7 f rest

end Sys2Proof.Laws
end

