-- ==== Sys2Proof/Machine/Procedures.lean ====
section
/-! DEFINITION. The host's procedures as scripts, the blocking read with its loop, the pipeline's descriptors, and the conditions the procedures leave
behind (spec/43_pipeline_procedures.md R179 to R193; spec/30_encoding.md R80, R84; spec/42_sg_engine.md R171). -/

namespace Sys2Proof.Machine

/-- `RD <REG>` (R83). -/
def opRead (r : Reg) : Op := .reg 4 (readTxn r) 0#32

/-- `WR <REG>, v` (R83). -/
def opWrite (r : Reg) (v : Word) : Op := .reg 4 (writeTxn r) v

/-- `TICKS n` (R84). -/
def opTicks (n : Nat) : List Op := List.replicate n .tick

/-- `CLRINR` (R84). -/
def opClrInr : Op := opWrite .adcIsc 0x1#32

/-- `CLRERR` (R84). -/
def opClrErr : Op := opWrite .sgErrclr 0x1#32

/-- `CHEN c` (R84). -/
def opChEn (c : Chan) : Op := opWrite .sgEnaset (chanBit c)

/-- `DESC a, s, d, ctl` (R84). -/
def opDesc (a src dst ctl : Word) : List Op :=
  [.memWrite a src, .memWrite (a + 4#32) dst, .memWrite (a + 8#32) ctl, .memWrite (a + 12#32) 0#32]

/-- `ELEMS c, n` (R84). -/
def opElems (c : Chan) (n : Nat) : List Op := List.replicate n (.sgElem c)

/-- The step bytes of n channels in order, END and IE on the last one (R72, R179). -/
def stepBytesWord : List (BitVec 4) → Word
  | [] => 0#32
  | [ch] => 0x30#32 ||| ch.setWidth 32
  | ch :: rest => ch.setWidth 32 ||| (stepBytesWord rest <<< 8)

/-- `configure` (R179) for 1 to NSTEPS channels and an oversampling code 0..6; asked for anything else, it is refused
(R125, R180). -/
def configureScript (chans : List (BitVec 4)) (ovs : BitVec 3) : Option (List Op) :=
  if 1 ≤ chans.length ∧ chans.length ≤ Config.nSteps ∧ ovs ≠ 7#3 then
    some [opWrite .adcCtl 0#32, opWrite .adcStepcfg (stepBytesWord chans), opWrite .adcIsc 0x7#32,
          opWrite .adcIm 0x1#32, opWrite .adcCtl (0x011#32 ||| (ovs.setWidth 32 <<< 8))]
  else none

/-- The reload value of a sample rate R of at least 1 Hz: L = F_CLK / R - 1 in the host's integers, -1 for a rate above
F_CLK (R96, R181). -/
def reloadValue (fClk rate : Nat) : Int := (↑(fClk / rate) : Int) - 1

/-- The DATA a rate makes the host write to TMR_LOAD, if its arithmetic gets that far: L's low TMR_WIDTH bits (R96, K3).
L = -1 wraps or traps (R181), and the spec gives a rate of 0 no quotient: free values, log entry 22 (DESIGN CHOICE). -/
def reloadData (fClk rate : Nat) : Option Word :=
  if rate = 0 then Config.zeroRateReload
  else if reloadValue fClk rate < 0 ∧ Config.hostArithmeticWraps = false then none
  else some (BitVec.ofInt 32 (reloadValue fClk rate))

/-- The four writes of `arm_periodic_trigger`, with the reload value's DATA (R181). -/
def armScript (load : Word) : List Op :=
  [opWrite .tmrCtl 0x0#32, opWrite .tmrLoad load, opWrite .tmrCtl 0x6#32, opWrite .tmrCtl 0x7#32]

/-- `arm_periodic_trigger(rate_hz)` for a timer clocked at `fClk` (R181): no script when the host's arithmetic traps before
its first access (log entry 22). -/
def armPeriodicTrigger (fClk rate : Nat) : Option (List Op) := (reloadData fClk rate).map armScript

/-- `arm_periodic_trigger(rate_hz)` at the platform's F_CLK (R8, R181). -/
def armAtClock (rate : Nat) : Option (List Op) := armPeriodicTrigger Config.fClk rate

/-- `RD ADC_FIFO -> buf[k]` for k = 0 .. n-1 (R182). -/
def copyResults (buf : Word) : Nat → List Op
  | 0 => []
  | n + 1 => opRead .adcFifo :: .memSave buf :: copyResults (buf + 4#32) n

/-- The acquisition interrupt handler for n steps and a buffer in host memory (R182). -/
def acquisitionHandler (n : Nat) (buf : Word) : List Op := opClrInr :: copyResults buf n

/-- `read_channel(k)` (R187). -/
def readChannel (buf : Word) (k : Nat) : Op := .memRead (buf + BitVec.ofNat 32 (4 * k))

/-- The template and primary control word of a two-task chain (R78, R171). -/
def templateWord : Word := 0xAA008074#32

/-- The copy task's control word (R78, R171). -/
def copyTaskWord : Word := 0xEE000005#32

/-- The re-arm task's control word (R78, R171). -/
def rearmTaskWord : Word := 0xEE000002#32

/-- `init()` of the scatter-gather path on channel ADC_DMA_CH (R189), for a window at `base`, a table at `tb`, the template
at `tpl`, the destination word at `smp`, the task list at `list` and analog input `input`. -/
def sgInitScript (base tb tpl smp list : Word) (input : BitVec 4) : List Op :=
  let pri := tb + BitVec.ofNat 32 (16 * Config.adcDmaCh.val)
  let alt := pri + 0x200#32
  [opWrite .sgCtlbase tb, opWrite .sgCfg 0x1#32, opWrite .adcCtl 0x000#32,
   opWrite .adcStepcfg (0x30#32 ||| input.setWidth 32), opWrite .adcCtl 0x023#32, .memWrite tpl templateWord] ++
  opDesc list (base + 0x118#32) smp copyTaskWord ++
  opDesc (list + 16#32) tpl (pri + 8#32) rearmTaskWord ++
  [.memWrite pri (list + 28#32), .memWrite (pri + 4#32) (alt + 12#32), .memWrite (pri + 8#32) templateWord,
   opWrite .sgAltclr (chanBit Config.adcDmaCh), opChEn Config.adcDmaCh]

/-- The error handler's access to the block (R191); its counter is software (R6). -/
def errorHandler : List Op := [opClrErr]

/-- `read()` of the scatter-gather path (R192). -/
def sgRead (smp : Word) : Op := .memRead smp

/-! ### The blocking read (R193) -/

/-- Where the host stands in the blocking read: the accesses before its loop, the loop, and what follows it. -/
inductive BlockingRead where
  /-- The k-th write before the loop comes next. -/
  | setup (k : Fin 5)
  /-- A read of ADC_RIS comes next. -/
  | poll
  /-- A read of ADC_RIS gave bit 0 = 1: the clear of INR comes next. -/
  | clear
  /-- The read of ADC_FIFO comes next. -/
  | result
  /-- The host has its result. -/
  | done (v : Word)
deriving DecidableEq, Repr

/-- The writes before the loop (R193). -/
def blockingReadSetup (input : BitVec 4) : Vector Op 5 :=
  #v[opWrite .adcCtl 0x000#32, opWrite .adcStepcfg (0x30#32 ||| input.setWidth 32), opWrite .adcIm 0x0#32,
     opWrite .adcCtl 0x001#32, opWrite .adcPssi 0x1#32]

/-- The host's next access (R193). -/
def blockingReadOp (input : BitVec 4) : BlockingRead → Option Op
  | .setup k => some (blockingReadSetup input)[k]
  | .poll => some (opRead .adcRis)
  | .clear => some opClrInr
  | .result => some (opRead .adcFifo)
  | .done _ => none

/-- Where the host stands after that access, v the value its last read returned: the read of ADC_RIS is repeated until bit
0 of v is 1 (R193). -/
def blockingReadAfter (v : Word) : BlockingRead → BlockingRead
  | .setup k => if h : k.val + 1 < 5 then .setup ⟨k.val + 1, h⟩ else .poll
  | .poll => if v.getLsbD 0 then .clear else .poll
  | .clear => .result
  | .result => .done v
  | .done w => .done w

/-- Operations performed one after another, up to the first that does not complete. -/
def performAll : List Op → State → Host.Outcome State Fault Refusal
  | [], s => .next s
  | op :: rest, s =>
    match perform op s with
    | .next t => performAll rest t
    | o => o

/-- The host's next access, and where it stands then. -/
def blockingReadAccess (input : BitVec 4) (at_ : BlockingRead) (s : State) :
    Host.Outcome (State × BlockingRead) Fault Refusal :=
  match blockingReadOp input at_ with
  | none => .next (s, at_)
  | some op =>
    match perform op s with
    | .next t => .next (t, blockingReadAfter t.rdata at_)
    | .fault f => .fault f
    | .refused r => .refused r

/-- The blocking read on one input (R193) among other agents' steps: each list is what they do before the host's next
access, so the loop turns as often as ADC_RIS makes it. -/
def blockingRead (input : BitVec 4) : List (List Op) → BlockingRead → State →
    Host.Outcome (State × BlockingRead) Fault Refusal
  | [], at_, s => .next (s, at_)
  | others :: rest, at_, s =>
    match performAll others s with
    | .fault f => .fault f
    | .refused r => .refused r
    | .next t =>
      match blockingReadAccess input at_ t with
      | .next (u, after) => blockingRead input rest after u
      | o => o

/-- The sequencer's three states of the source (R40). -/
inductive AcquisitionState where
  | unconfigured
  | idle
  | running
deriving DecidableEq, Repr

/-- Which of them the registers show, if any (R40). -/
def acquisitionState (s : State) : Option AcquisitionState :=
  if s.adc.seqEn = false then some .unconfigured
  else if s.tmr.en = false then some .idle
  else if s.adc.trig = Config.trigTimer ∧ s.tmr.trigEn ∧ s.tmr.periodic then some .running
  else none

/-- The configuration invariant the host keeps for n steps (R180): END and IE on step n-1, neither on an earlier one, and
on no other step both. R180 leaves open whether an unused step, n or above, may carry one of the two alone; that the
invariant allows neither there, as `configure` leaves them (R179), is the model's choice, log entry 23 (DESIGN CHOICE). -/
def configInvariant (a : Adc) (n : Nat) : Bool :=
  decide (1 ≤ n) && decide (n ≤ Config.nSteps) &&
    (List.finRange 4).all fun k =>
      if k.val + 1 = n then a.steps[k].last && a.steps[k].ie
      else if k.val + 1 < n then !a.steps[k].last && !a.steps[k].ie
      else !a.steps[k].last && !a.steps[k].ie

/-- Armed (R14, R41): channel c is enabled and idle, and its primary's control word is the template. -/
def armed (s : State) (c : Chan) : Bool :=
  hasChan s.sge.enable c && !(s.sge.rs[c]).isActive && memRead s.mem (priAddr s c + 8#32) .word == templateWord

end Sys2Proof.Machine
end

