-- ==== Sys2Proof/Laws/Procedures.lean ====
section
/-! SUPPORT. What a sample rate makes the host write (R96, R181), and when the blocking read leaves its loop (R193). -/

namespace Sys2Proof.Laws

open Sys2Proof.Machine

/-- A rate whose reload value is representable programs it exactly: the period is F_CLK / R ticks (R96). -/
theorem reloadData_representable {fClk rate : Nat} (h0 : rate ≠ 0) (h1 : 1 ≤ fClk / rate) (h2 : fClk / rate ≤ 2 ^ 32) :
    ∃ l : Word, reloadData fClk rate = some l ∧ l.toNat + 1 = fClk / rate := by
  have hv : ¬ reloadValue fClk rate < 0 := by
    unfold reloadValue
    omega
  refine ⟨_, by rw [reloadData, if_neg h0, if_neg fun h => hv h.1], ?_⟩
  have hn : reloadValue fClk rate = ((fClk / rate - 1 : Nat) : Int) := by
    unfold reloadValue
    omega
  rw [hn, BitVec.ofInt_natCast, BitVec.toNat_ofNat, Nat.mod_eq_of_lt (by omega)]
  omega

/-- A quotient above the counter's width is truncated to its low TMR_WIDTH bits (R96, K3). -/
theorem reloadData_truncates {fClk rate : Nat} (h0 : rate ≠ 0) (h1 : 1 ≤ fClk / rate) :
    reloadData fClk rate = some (BitVec.ofNat 32 (fClk / rate - 1)) := by
  have hn : reloadValue fClk rate = ((fClk / rate - 1 : Nat) : Int) := by
    unfold reloadValue
    omega
  rw [reloadData, if_neg h0, if_neg (fun h => by omega), hn, BitVec.ofInt_natCast]

/-- A rate above F_CLK wraps or traps (R181). -/
theorem reloadData_aboveClock {fClk rate : Nat} (h : fClk < rate) :
    reloadData fClk rate = if Config.hostArithmeticWraps then some 0xFFFFFFFF#32 else none := by
  have hn : reloadValue fClk rate = -1 := by
    rw [reloadValue, Nat.div_eq_of_lt h]
    rfl
  rw [reloadData, if_neg (by omega), hn]
  cases Config.hostArithmeticWraps <;> simp

/-- The loop is left exactly by a read of ADC_RIS with bit 0 set (R193). -/
theorem blockingReadAfter_poll (v : Word) :
    blockingReadAfter v .poll = if v.getLsbD 0 then .clear else .poll := rfl

/-- The clear of INR comes only after a read of ADC_RIS with bit 0 set (R193). -/
theorem blockingReadAfter_eq_clear {v : Word} {p : BlockingRead} (h : blockingReadAfter v p = .clear) :
    p = .poll ∧ v.getLsbD 0 = true := by
  cases p with
  | setup k =>
    simp only [blockingReadAfter] at h
    split at h <;> cases h
  | poll =>
    rw [blockingReadAfter_poll] at h
    split at h
    · exact ⟨rfl, ‹_›⟩
    · cases h
  | clear => cases h
  | result => cases h
  | done w => cases h

end Sys2Proof.Laws
end

