-- ==== Sys2Proof/Laws/Sequencer.lean ====
section
/-! SUPPORT. The timer's tick and the sequencer's two steps keep the block's invariant. -/

namespace Sys2Proof.Laws

open Sys2Proof.Machine

theorem timeoutTrigger_tmr (s : State) : (timeoutTrigger s).tmr = s.tmr := by
  unfold timeoutTrigger latchTrigger
  split
  · split <;> rfl
  · rfl

theorem coreInv_timeoutTrigger {s : State} (hi : CoreInv s) : CoreInv (timeoutTrigger s) := by
  unfold timeoutTrigger
  split
  · exact coreInv_latchTrigger (.inr rfl) hi
  · exact hi

theorem coreInv_tmrTick {s : State} (hi : CoreInv s) : CoreInv (tmrTick s) := by
  unfold tmrTick
  split
  · have h1 := coreInv_timeoutTrigger hi
    simp only
    split
    · exact ⟨h1.timer, h1.codes, h1.fifo, h1.sequence, h1.pending, h1.table, h1.one, h1.enabled, h1.budget, h1.memory⟩
    · exact ⟨fun h => (by cases h.1), h1.codes, h1.fifo, h1.sequence, h1.pending, h1.table, h1.one, h1.enabled, h1.budget,
        h1.memory⟩
  · exact ⟨hi.timer, hi.codes, hi.fifo, hi.sequence, hi.pending, hi.table, hi.one, hi.enabled, hi.budget, hi.memory⟩

theorem coreInv_seqStart {s t : State} (h : seqStart s = .ok t) (he : startEnabled s = true) (hi : CoreInv s) :
    CoreInv t := by
  simp only [seqStart, raise] at h
  split at h
  · cases h
  · rename_i hend
    cases h
    have hen : s.adc.seqEn = true := by
      simp only [startEnabled, Bool.and_eq_true] at he
      exact he.1.1
    exact ⟨hi.timer, hi.codes, hi.fifo, ⟨fun _ => ⟨hen, by simpa using hend⟩, fun h => (by cases h)⟩, fun h => (by cases h),
      hi.table, hi.one, hi.enabled, hi.budget, hi.memory⟩

/-- An END step at or after k that is not k itself lies after k, and k is not the last step. -/
theorem hasEndFrom_succ {a : Adc} {k : StepIx} (h : hasEndFrom a k.val = true) (hk : (a.steps[k]).last = false) :
    hasEndFrom a (k + 1).val = true := by
  match k, h, hk with
  | 0, h, hk =>
    have hk : a.steps[0].last = false := hk
    show hasEndFrom a 1 = true
    replace h : hasEndFrom a 0 = true := h
    simpa [hasEndFrom, hk] using h
  | 1, h, hk =>
    have hk : a.steps[1].last = false := hk
    show hasEndFrom a 2 = true
    replace h : hasEndFrom a 1 = true := h
    simpa [hasEndFrom, hk] using h
  | 2, h, hk =>
    have hk : a.steps[2].last = false := hk
    show hasEndFrom a 3 = true
    replace h : hasEndFrom a 2 = true := h
    simpa [hasEndFrom, hk] using h
  | 3, h, hk =>
    have hk : a.steps[3].last = false := hk
    replace h : hasEndFrom a 3 = true := h
    simp [hasEndFrom, hk] at h

theorem coreInv_pushResult (v : Sample) {s : State} (hi : CoreInv s) : CoreInv (pushResult v s) := by
  unfold pushResult
  split
  · rename_i hlt
    refine ⟨hi.timer, hi.codes, ?_, hi.sequence, hi.pending, hi.table, hi.one, hi.enabled, hi.budget, hi.memory⟩
    show (s.seq.fifo ++ [v]).length ≤ _
    rw [List.length_append]
    exact hlt
  · exact coreInv_setRis _ hi

theorem coreInv_stepCompletes {s : State} (hi : CoreInv s) : CoreInv (stepCompletes s) := by
  unfold stepCompletes
  simp only
  split
  · exact coreInv_requestChans _ (coreInv_setRis _ hi)
  · exact coreInv_setRis _ hi

/-- What a conversion leaves as it is up to the choice of the next step. -/
theorem pushResult_keeps (v : Sample) (s : State) :
    (pushResult v s).adc.steps = s.adc.steps ∧ (pushResult v s).seq.step = s.seq.step ∧
      (pushResult v s).seq.busy = s.seq.busy ∧ (pushResult v s).adc.seqEn = s.adc.seqEn := by
  unfold pushResult
  split <;> exact ⟨rfl, rfl, rfl, rfl⟩

theorem stepCompletes_keeps (s : State) :
    (stepCompletes s).adc.steps = s.adc.steps ∧ (stepCompletes s).seq = s.seq ∧
      (stepCompletes s).adc.seqEn = s.adc.seqEn := by
  unfold stepCompletes requestChans
  simp only
  split
  · split <;> exact ⟨rfl, rfl, rfl⟩
  · exact ⟨rfl, rfl, rfl⟩

theorem coreInv_nextStep {s : State} (hb : s.seq.busy = true) (hi : CoreInv s) :
    CoreInv (nextStep s.adc.steps[s.seq.step] s) := by
  obtain ⟨hen, hend⟩ := hi.sequence.1 hb
  unfold nextStep
  split
  · exact ⟨hi.timer, hi.codes, hi.fifo, ⟨fun h => by (simp only at h; cases h), fun _ => rfl⟩, hi.pending, hi.table, hi.one,
      hi.enabled, hi.budget, hi.memory⟩
  · rename_i hl
    refine ⟨hi.timer, hi.codes, hi.fifo, ⟨fun _ => ⟨hen, hasEndFrom_succ hend (by simpa using hl)⟩, fun h => ?_⟩,
      hi.pending, hi.table, hi.one, hi.enabled, hi.budget, hi.memory⟩
    have h' : s.seq.busy = false := h
    rw [hb] at h'
    cases h'

theorem coreInv_seqConv {s : State} (hb : s.seq.busy = true) (hi : CoreInv s) : CoreInv (seqConv s) := by
  unfold seqConv
  simp only
  generalize hd : drawSum (s.adc.steps[s.seq.step]).insel (oversampleCount s) s = d
  obtain ⟨total, s1⟩ := d
  have hs1 : s1 = { s with env := s1.env } := by
    have := drawSum_spec (s.adc.steps[s.seq.step]).insel (oversampleCount s) s
    rw [hd] at this
    exact this
  have h1 : CoreInv s1 := by
    rw [hs1]
    exact ⟨hi.timer, hi.codes, hi.fifo, hi.sequence, hi.pending, hi.table, hi.one, hi.enabled, hi.budget, hi.memory⟩
  have k1 : s1.adc = s.adc ∧ s1.seq = s.seq := by
    rw [hs1]
    exact ⟨rfl, rfl⟩
  simp only
  have h2 := coreInv_pushResult (average total (oversampleCount s)) h1
  have k2 := pushResult_keeps (average total (oversampleCount s)) s1
  generalize pushResult (average total (oversampleCount s)) s1 = s2 at h2 k2
  rw [k1.1, k1.2] at k2
  split
  · have h3 := coreInv_stepCompletes h2
    have k3 := stepCompletes_keeps s2
    have := coreInv_nextStep (by rw [k3.2.1, k2.2.2.1, hb]) h3
    simp only [k3.1, k3.2.1, k2.1, k2.2.1] at this
    exact this
  · have := coreInv_nextStep (by rw [k2.2.2.1, hb]) h2
    simp only [k2.1, k2.2.1] at this
    exact this

/-! ### What the steps leave alone -/

theorem tmrTicks_succ (n : Nat) (s : State) : tmrTicks (n + 1) s = tmrTick (tmrTicks n s) := by
  induction n generalizing s with
  | zero => rfl
  | succ n ih =>
    show tmrTicks (n + 1) (tmrTick s) = _
    rw [ih]
    rfl

theorem seqConvs_succ (n : Nat) (s : State) : seqConvs (n + 1) s = seqConv (seqConvs n s) := by
  induction n generalizing s with
  | zero => rfl
  | succ n ih =>
    show seqConvs (n + 1) (seqConv s) = _
    rw [ih]
    rfl

/-- A tick changes the timer and may latch a trigger (R94, R101). -/
theorem tmrTick_frame (s : State) :
    tmrTick s = { s with tmr := (tmrTick s).tmr, seq := { s.seq with pending := (tmrTick s).seq.pending } } := by
  unfold tmrTick timeoutTrigger latchTrigger
  (repeat' split) <;> rfl

/-- What the parts of a conversion can change: the FIFO, the sequence's position, ADC_RIS, the request latch and the
environment. -/
def ConvFrame (s t : State) : Prop :=
  ∃ b k f r w e, t = { s with seq := { s.seq with busy := b, step := k, fifo := f }, adc := { s.adc with ris := r },
                              sge := { s.sge with req := w }, env := e }

theorem ConvFrame.trans {s t u : State} (h : ConvFrame s t) (h' : ConvFrame t u) : ConvFrame s u := by
  obtain ⟨b, k, f, r, w, e, rfl⟩ := h
  obtain ⟨b', k', f', r', w', e', rfl⟩ := h'
  exact ⟨b', k', f', r', w', e', rfl⟩

theorem pushResult_frame (v : Sample) (s : State) : ConvFrame s (pushResult v s) := by
  unfold pushResult
  split <;> exact ⟨_, _, _, _, _, _, rfl⟩

theorem stepCompletes_frame (s : State) : ConvFrame s (stepCompletes s) := by
  unfold stepCompletes requestChans
  simp only
  (repeat' split) <;> exact ⟨_, _, _, _, _, _, rfl⟩

theorem nextStep_frame (cfg : StepCfg) (s : State) : ConvFrame s (nextStep cfg s) := by
  unfold nextStep
  split <;> exact ⟨_, _, _, _, _, _, rfl⟩

/-- SEQ.CONV changes nothing else (R120). -/
theorem seqConv_frame (s : State) : ConvFrame s (seqConv s) := by
  have h0 : ConvFrame s (drawSum (s.adc.steps[s.seq.step]).insel (oversampleCount s) s).2 := by
    rw [drawSum_spec]
    exact ⟨_, _, _, _, _, _, rfl⟩
  have h1 := h0.trans (pushResult_frame (average (drawSum (s.adc.steps[s.seq.step]).insel (oversampleCount s) s).1
    (oversampleCount s)) _)
  unfold seqConv
  simp only
  split
  · exact (h1.trans (stepCompletes_frame _)).trans (nextStep_frame _ _)
  · exact h1.trans (nextStep_frame _ _)

end Sys2Proof.Laws
end

