-- ==== Sys2Proof/Laws/Step.lean ====
section
/-! SUPPORT. What each operation of the script can do, and that it keeps the block's invariant. -/

namespace Sys2Proof.Laws

open Sys2Proof.Machine

theorem coreInv_of_env {s : State} (e : Env) (hi : CoreInv s) : CoreInv { s with env := e } :=
  ⟨hi.timer, hi.codes, hi.fifo, hi.sequence, hi.pending, hi.table, hi.one, hi.enabled, hi.budget, hi.memory⟩

theorem coreInv_of_rdata {s : State} (v : Word) (hi : CoreInv s) : CoreInv { s with rdata := v } :=
  ⟨hi.timer, hi.codes, hi.fifo, hi.sequence, hi.pending, hi.table, hi.one, hi.enabled, hi.budget, hi.memory⟩

theorem coreInv_of_latch {s : State} (l : SgLatch) (hi : CoreInv s) : CoreInv { s with latch := l } :=
  ⟨hi.timer, hi.codes, hi.fifo, hi.sequence, hi.pending, hi.table, hi.one, hi.enabled, hi.budget, hi.memory⟩

theorem exec_readInstr (r : Reg) (s : State) : exec (readInstr r) s = hostReads (regRead r s) := by
  cases r <;> rfl

theorem exec_writeInstr (r : Reg) (d : Word) (s : State) : exec (writeInstr r d) s = outcomeOf (regWrite r d s) := by
  cases r <;> rfl

theorem exec_ctlInstr (m : XferMode) (f : CtlFields) (s : State) : exec (ctlInstr m f) s = outcomeOf (sgServe m f s) := by
  cases m <;> rfl

/-- The bytes of any transaction word decode, so a host transaction runs the row it matches. -/
theorem hostTxn_eq (width : Nat) (tw : TxnWord) (d : Word) (s : State) :
    hostTxn width tw d s = exec (txnInstr width tw (if isWriteTxn tw then d else 0#32)) s := by
  unfold hostTxn runBytes
  rw [← List.append_nil (txnBytes tw d), decode_txnBytes]

/-- A fetched control word is run as the row of its mode. -/
theorem runBytes_wordBytes (w : Word) (s : State) :
    runBytes .sgCtl (wordBytes w) s = exec (ctlInstr (ctlMode w) (ctlFields w)) s := by
  unfold runBytes
  rw [← List.append_nil (wordBytes w), decode_wordBytes]

/-- A host transaction that completes keeps the invariant and the latch. -/
theorem inv_hostTxn {width : Nat} {tw : TxnWord} {d : Word} {s t : State} (h : hostTxn width tw d s = .next t)
    (hi : Inv s) : Inv t := by
  rw [hostTxn_eq] at h
  unfold txnInstr at h
  split at h
  · split at h
    · split at h
      · rw [exec_writeInstr, outcomeOf_eq_next] at h
        exact ⟨coreInv_regWrite h hi.core, by
          show t.latch = _
          rw [(regWrite_frame h).2.2.2.1]
          exact hi.latch⟩
      · rename_i r _ _
        rw [exec_readInstr] at h
        cases h
        have he := regRead_effect r s
        exact ⟨coreInv_of_rdata _ (coreInv_of_readEffect he hi.core), by
          show (regRead r s).2.latch = _
          rw [readEffect_latch he]
          exact hi.latch⟩
    · cases h
  · cases h

theorem endSgStep_eq_next {o : Host.Outcome State Fault Refusal} {t : State} (h : endSgStep o = .next t) :
    ∃ u, o = .next u ∧ t = dropLatch u := by
  cases o with
  | next u => cases h; exact ⟨u, rfl, rfl⟩
  | fault f => cases h
  | refused r => cases h

/-- What a fetch can change: the side effects of its reads, and on success the latch, which names the channel. -/
theorem fetchAccept_spec (c : Chan) (s : State) :
    (∃ u, fetchAccept c s = (none, u) ∧ ReadEffect s u) ∨
    (∃ ctl u l, fetchAccept c s = (some ctl, { u with latch := l }) ∧ ReadEffect s u ∧ l.chan = c) := by
  have he := sgeRead_effect s (structAddr s c + 8#32) .word
  unfold fetchAccept
  generalize sgeRead s (structAddr s c + 8#32) .word = r at he
  obtain ⟨o, u⟩ := r
  cases o with
  | none => exact .inl ⟨u, rfl, he⟩
  | some ctl => exact .inr ⟨ctl, u, _, rfl, he, rfl⟩

theorem fetchElem_spec (c : Chan) (s : State) :
    (∃ u, fetchElem c s = (none, u) ∧ ReadEffect s u) ∨
    (∃ ctl u l, fetchElem c s = (some ctl, { u with latch := l }) ∧ ReadEffect s u ∧ l.chan = c) := by
  unfold fetchElem
  simp only
  have h0 := sgeRead_effect s (structAddr s c) .word
  generalize sgeRead s (structAddr s c) .word = r0 at h0
  obtain ⟨w0, s1⟩ := r0
  have h1 := sgeRead_effect s1 (structAddr s c + 4#32) .word
  simp only
  generalize sgeRead s1 (structAddr s c + 4#32) .word = r1 at h1
  obtain ⟨w1, s2⟩ := r1
  have h2 := sgeRead_effect s2 (structAddr s c + 8#32) .word
  simp only
  generalize sgeRead s2 (structAddr s c + 8#32) .word = r2 at h2
  obtain ⟨w2, s3⟩ := r2
  have he : ReadEffect s s3 := (h0.trans h1).trans h2
  simp only
  cases w0 <;> cases w1 <;> cases w2
  all_goals first
    | exact .inr ⟨_, s3, _, rfl, he, rfl⟩
    | exact .inl ⟨s3, rfl, he⟩

/-- An SGE step that completes after a fetch keeps the invariant. -/
theorem inv_engineStep {ctl : Word} {s u t : State} {l : SgLatch} (he : ReadEffect s u) (hi : CoreInv s)
    (hacc : s.sge.rs[l.chan] = .idle →
      s.sge.masterEn = true ∧ hasChan s.sge.enable l.chan = true ∧ ∀ d : Chan, (s.sge.rs[d]).isActive = false)
    (h : endSgStep (runBytes .sgCtl (wordBytes ctl) { u with latch := l }) = .next t) : Inv t := by
  obtain ⟨v, hv, rfl⟩ := endSgStep_eq_next h
  rw [runBytes_wordBytes, exec_ctlInstr, outcomeOf_eq_next] at hv
  have hu : CoreInv { u with latch := l } := coreInv_of_latch l (coreInv_of_readEffect he hi)
  refine ⟨coreInv_of_latch _ (coreInv_sgServe hv hu ?_), rfl⟩
  have hs : u.sge = s.sge := readEffect_sge he
  simpa only [hs] using hacc

end Sys2Proof.Laws
end

