-- ==== Sys2Proof/Tests/Slice0.lean ====
section
/-! SUPPORT. Tests: the well-formedness smoke, every row decoded from a word written out from spec/30_encoding.md, single
steps with results from spec/95_test_vectors.md, and for each statement with hypotheses a state that meets them. -/

namespace Sys2Proof.Tests

open Sys2Proof Sys2Proof.Machine Sys2Proof.Claims

/-! ### Helpers -/

/-- The next state of an outcome. -/
def nextOf (o : Host.Outcome State Fault Refusal) : Option State :=
  match o with
  | .next s => some s
  | .fault _ => none
  | .refused _ => none

/-- The fault of an outcome. -/
def faultOf (o : Host.Outcome State Fault Refusal) : Option Fault :=
  match o with
  | .next _ => none
  | .fault f => some f
  | .refused _ => none

/-- The reset state with the register window at 0x40000000, the example of spec/95_test_vectors.md. -/
def st : State := { State.reset with blockPage := 0x40000#20 }

/-- The instruction that the bytes of a 4-byte register access are, when nothing is left over. -/
def txnRow (bytes : List Byte) : Option Instr :=
  match decode (.regTxn 4) bytes with
  | .ok (i, []) => some i
  | .ok (_, _ :: _) => none
  | .error _ => none

/-- The instruction that four bytes of memory are as a control word. -/
def ctlRow (bytes : List Byte) : Option Instr :=
  match decode .sgCtl bytes with
  | .ok (i, []) => some i
  | .ok (_, _ :: _) => none
  | .error _ => none

/-- The timer's registers. -/
def tmr (en periodic trigEn : Bool) (load value : Word) : Tmr :=
  { en := en, periodic := periodic, trigEn := trigEn, load := load, value := value }

/-- `st` with the sequencer enabled, a trigger source, an oversampling code and the step bytes of `cfg`. -/
def adcOn (trig : BitVec 2) (ovs : BitVec 3) (cfg : Word) : State :=
  { st with adc := { st.adc with
      seqEn := true, trig := trig, ovs := ovs
      steps := #v[stepOfByte (byteOf cfg 0), stepOfByte (byteOf cfg 1), stepOfByte (byteOf cfg 2),
                  stepOfByte (byteOf cfg 3)] } }

/-- `s` with the sequence running at step k, results in the FIFO and raw conversions to come. -/
def busyAt (k : StepIx) (fifo samples : List Sample) (s : State) : State :=
  { s with seq := { busy := true, step := k, pending := false, fifo := fifo }, env := { s.env with samples := samples } }

/-- The controller enabled with the table at 0x20000400, channel 0 enabled in run state r, its alternate selected or not,
and the bus answering `oks`. -/
def engine (r : RunState) (alt : Bool) (oks : List Bool) : State :=
  { st with
    sge := { st.sge with masterEn := true, ctlBase := 0x20000400#32, enable := 1#32,
                         altSel := if alt then 1#32 else 0#32, rs := st.sge.rs.set 0 r }
    env := { st.env with responses := oks } }

/-- `s` in the middle of a step on channel 0, the descriptor's pointers fetched. -/
def fetched (srcEnd dstEnd : Word) (s : State) : State :=
  { s with latch := { chan := 0, srcEnd := srcEnd, dstEnd := dstEnd } }

/-- `s` with a word in memory. -/
def withWord (a v : Word) (s : State) : State := { s with mem := memWrite s.mem a .word v }

/-! ### Well-formedness -/

/-- BUSERR with width 4 at an assigned offset is RD.TMR_CTL's word (R69). -/
theorem test_wellFormed_refuses_assigned_offset : wellFormed (.busErr 4 0x000#13 0#32) = false := by decide
/-- A read brings no data (R68). -/
theorem test_wellFormed_refuses_read_data : wellFormed (.busErr 4 0x300#13 7#32) = false := by decide
theorem test_wellFormed_accepts :
    wellFormed (.busErr 4 0x22C#13 0#32) = true ∧ wellFormed (.busErr 2 0x1000#13 7#32) = true ∧
    wellFormed (.wrTmrLoad 0x7CF#32) = true := by decide

/-! ### Decoding: the words of R69's table, low byte first -/

theorem test_decode_timer_rows :
    txnRow [0x00#8, 0x00#8] = some .rdTmrCtl ∧
    txnRow [0x00#8, 0x10#8, 0x07#8, 0x00#8, 0x00#8, 0x00#8] = some (.wrTmrCtl 7#32) ∧
    txnRow [0x04#8, 0x00#8] = some .rdTmrLoad ∧
    txnRow [0x04#8, 0x10#8, 0xCF#8, 0x07#8, 0x00#8, 0x00#8] = some (.wrTmrLoad 0x7CF#32) ∧
    txnRow [0x08#8, 0x00#8] = some .rdTmrValue ∧
    txnRow [0x08#8, 0x10#8, 0x05#8, 0x00#8, 0x00#8, 0x00#8] = some (.wrTmrValue 5#32) := by decide

theorem test_decode_sequencer_reads :
    txnRow [0x00#8, 0x01#8] = some .rdAdcCtl ∧ txnRow [0x04#8, 0x01#8] = some .rdAdcStepcfg ∧
    txnRow [0x08#8, 0x01#8] = some .rdAdcPssi ∧ txnRow [0x0C#8, 0x01#8] = some .rdAdcRis ∧
    txnRow [0x10#8, 0x01#8] = some .rdAdcIm ∧ txnRow [0x14#8, 0x01#8] = some .rdAdcIsc ∧
    txnRow [0x18#8, 0x01#8] = some .rdAdcFifo ∧ txnRow [0x1C#8, 0x01#8] = some .rdAdcFstat := by decide

theorem test_decode_sequencer_writes :
    txnRow [0x00#8, 0x11#8, 0x11#8, 0x03#8, 0x00#8, 0x00#8] = some (.wrAdcCtl 0x311#32) ∧
    txnRow [0x04#8, 0x11#8, 0x00#8, 0x01#8, 0x36#8, 0x00#8] = some (.wrAdcStepcfg 0x00360100#32) ∧
    txnRow [0x08#8, 0x11#8, 0x01#8, 0x00#8, 0x00#8, 0x00#8] = some (.wrAdcPssi 1#32) ∧
    txnRow [0x0C#8, 0x11#8, 0x01#8, 0x00#8, 0x00#8, 0x00#8] = some (.wrAdcRis 1#32) ∧
    txnRow [0x10#8, 0x11#8, 0x01#8, 0x00#8, 0x00#8, 0x00#8] = some (.wrAdcIm 1#32) ∧
    txnRow [0x14#8, 0x11#8, 0x07#8, 0x00#8, 0x00#8, 0x00#8] = some (.wrAdcIsc 7#32) ∧
    txnRow [0x18#8, 0x11#8, 0x07#8, 0x00#8, 0x00#8, 0x00#8] = some (.wrAdcFifo 7#32) ∧
    txnRow [0x1C#8, 0x11#8, 0x00#8, 0x00#8, 0x00#8, 0x00#8] = some (.wrAdcFstat 0#32) := by decide

theorem test_decode_engine_reads :
    txnRow [0x00#8, 0x02#8] = some .rdSgCfg ∧ txnRow [0x04#8, 0x02#8] = some .rdSgCtlbase ∧
    txnRow [0x08#8, 0x02#8] = some .rdSgEnaset ∧ txnRow [0x0C#8, 0x02#8] = some .rdSgEnaclr ∧
    txnRow [0x10#8, 0x02#8] = some .rdSgAltset ∧ txnRow [0x14#8, 0x02#8] = some .rdSgAltclr ∧
    txnRow [0x18#8, 0x02#8] = some .rdSgSwreq ∧ txnRow [0x1C#8, 0x02#8] = some .rdSgErrclr ∧
    txnRow [0x20#8, 0x02#8] = some .rdSgDone ∧ txnRow [0x24#8, 0x02#8] = some .rdSgDoneim ∧
    txnRow [0x28#8, 0x02#8] = some .rdSgActive := by decide

theorem test_decode_engine_writes :
    txnRow [0x00#8, 0x12#8, 0x01#8, 0x00#8, 0x00#8, 0x00#8] = some (.wrSgCfg 1#32) ∧
    txnRow [0x04#8, 0x12#8, 0x00#8, 0x04#8, 0x00#8, 0x20#8] = some (.wrSgCtlbase 0x20000400#32) ∧
    txnRow [0x08#8, 0x12#8, 0x01#8, 0x00#8, 0x00#8, 0x00#8] = some (.wrSgEnaset 1#32) ∧
    txnRow [0x0C#8, 0x12#8, 0x02#8, 0x00#8, 0x00#8, 0x00#8] = some (.wrSgEnaclr 2#32) ∧
    txnRow [0x10#8, 0x12#8, 0x02#8, 0x00#8, 0x00#8, 0x00#8] = some (.wrSgAltset 2#32) ∧
    txnRow [0x14#8, 0x12#8, 0xFF#8, 0xFF#8, 0xFF#8, 0xFF#8] = some (.wrSgAltclr 0xFFFFFFFF#32) ∧
    txnRow [0x18#8, 0x12#8, 0x08#8, 0x00#8, 0x00#8, 0x00#8] = some (.wrSgSwreq 8#32) ∧
    txnRow [0x1C#8, 0x12#8, 0x01#8, 0x00#8, 0x00#8, 0x00#8] = some (.wrSgErrclr 1#32) ∧
    txnRow [0x20#8, 0x12#8, 0x01#8, 0x00#8, 0x00#8, 0x00#8] = some (.wrSgDone 1#32) ∧
    txnRow [0x24#8, 0x12#8, 0x01#8, 0x00#8, 0x00#8, 0x00#8] = some (.wrSgDoneim 1#32) ∧
    txnRow [0x28#8, 0x12#8, 0xFF#8, 0xFF#8, 0xFF#8, 0xFF#8] = some (.wrSgActive 0xFFFFFFFF#32) := by decide

/-- V-DEC-1 to V-DEC-4: unassigned, misaligned and narrow accesses are BUSERR. -/
theorem test_decode_buserr :
    txnRow [0x00#8, 0x03#8] = some (.busErr 4 0x300#13 0#32) ∧
    txnRow [0x2C#8, 0x11#8, 0x01#8, 0x00#8, 0x00#8, 0x00#8] = some (.busErr 4 0x112C#13 1#32) ∧
    txnRow [0x02#8, 0x01#8] = some (.busErr 4 0x102#13 0#32) := by decide

/-- The control words of R78, section 2.6 and section 2.7, byte by byte as memory holds them. -/
theorem test_decode_control_words :
    ctlRow [0x74#8, 0x80#8, 0x00#8, 0xAA#8] = some (.sgctlMemSg ⟨2, 2, 2, 2, 0, 2, 7, 0⟩) ∧
    ctlRow [0x05#8, 0x00#8, 0x00#8, 0xEE#8] = some (.sgctlAltSg ⟨3, 2, 3, 2, 0, 0, 0, 0⟩) ∧
    ctlRow [0x02#8, 0x00#8, 0x00#8, 0xEE#8] = some (.sgctlAuto ⟨3, 2, 3, 2, 0, 0, 0, 0⟩) ∧
    ctlRow [0x31#8, 0x40#8, 0x00#8, 0x00#8] = some (.sgctlBasic ⟨0, 0, 0, 0, 0, 1, 3, 0⟩) ∧
    ctlRow [0x00#8, 0x80#8, 0x00#8, 0xAA#8] = some (.sgctlStop ⟨2, 2, 2, 2, 0, 2, 0, 0⟩) ∧
    ctlRow [0x03#8, 0x00#8, 0x00#8, 0x00#8] = some (.sgctlRsvd3 ⟨0, 0, 0, 0, 0, 0, 0, 0⟩) ∧
    ctlRow [0x76#8, 0x80#8, 0x00#8, 0xAA#8] = some (.sgctlRsvd6 ⟨2, 2, 2, 2, 0, 2, 7, 0⟩) ∧
    ctlRow [0x07#8, 0x00#8, 0x00#8, 0xEE#8] = some (.sgctlRsvd7 ⟨3, 2, 3, 2, 0, 0, 0, 0⟩) := by decide

/-- V-CTL-12 to V-CTL-14: the reserved bits and ARBSIZE lie where R74 puts them. -/
theorem test_decode_reserved_bits :
    ctlRow [0x01#8, 0x00#8, 0x04#8, 0x00#8] = some (.sgctlBasic ⟨0, 0, 0, 0, 1, 0, 0, 0⟩) ∧
    ctlRow [0x01#8, 0xC0#8, 0x02#8, 0x00#8] = some (.sgctlBasic ⟨0, 0, 0, 0, 0, 11, 0, 0⟩) ∧
    ctlRow [0x09#8, 0x00#8, 0x00#8, 0x00#8] = some (.sgctlBasic ⟨0, 0, 0, 0, 0, 0, 0, 1⟩) := by decide

theorem test_decode_refuses :
    txnRow [0x00#8] = none ∧ txnRow [0x00#8, 0x20#8] = none ∧ txnRow [0x00#8, 0x10#8, 0x07#8] = none ∧
    ctlRow [0x00#8, 0x00#8, 0x00#8] = none := by decide

/-- A table word reaches the decoder and the first step after reset. -/
theorem test_withFetchWord :
    decodeTableWord 13 0x11C = some .rdAdcFstat ∧
    (nextOf (step (State.reset.withFetchWord 13 0x11C))).map (·.rdata) = some 0x100#32 ∧
    decodeTableWord 32 2 = some (.sgctlAuto ⟨0, 0, 0, 0, 0, 0, 0, 0⟩) ∧
    (nextOf (step (State.reset.withFetchWord 32 2))).map (fun t => t.sge.rs[0]) = some (.active .inf false) ∧
    faultOf (step (State.reset.withFetchWord 32 3)) = some .F05 := by decide

/-- An ALT_SG table word runs as an alternate of a chain run, and its one element returns to the primary (R167). -/
theorem test_withFetchWord_altSg :
    (nextOf (step (State.reset.withFetchWord 32 5))).map (fun t => (t.sge.rs[0], t.sge.altSel)) =
      some (.active .inf true, 0#32) := by decide

/-! ### The timer (section 2.1) -/

/-- V-TMR-2. -/
theorem test_wrTmrCtl_loads :
    (nextOf (exec (.wrTmrCtl 0xFFFFFFFF#32) { st with tmr := tmr false false false 1999#32 0#32 })).map (·.tmr) =
      some (tmr true true true 1999#32 1999#32) := by decide
/-- V-TMR-7, V-TMR-8. -/
theorem test_wrTmrCtl_zero_load :
    faultOf (exec (.wrTmrCtl 3#32) st) = some .F01 ∧
    (nextOf (exec (.wrTmrCtl 1#32) st)).map (·.tmr.en) = some true := by decide
/-- V-TMR-9, V-TMR-10. -/
theorem test_wrTmrLoad :
    faultOf (exec (.wrTmrLoad 0#32) { st with tmr := tmr true true false 5#32 2#32 }) = some .F01 ∧
    (nextOf (exec (.wrTmrLoad 5#32) { st with tmr := tmr true true false 3#32 1#32 })).map (·.tmr) =
      some (tmr true true false 5#32 1#32) := by decide
/-- V-TMR-4, V-TMR-6: the timeout of tick 4, and the one-shot's last tick. -/
theorem test_tick :
    (nextOf (perform .tick { adcOn 1#2 0#3 0#32 with tmr := tmr true true true 3#32 0#32 })).map
      (fun t => (t.tmr.value, t.seq.pending)) = some (3#32, true) ∧
    (nextOf (perform .tick { st with tmr := tmr true false true 2#32 0#32 })).map (·.tmr) =
      some (tmr false false true 2#32 0#32) := by decide
/-- V-TMR-13. -/
theorem test_wrTmrValue_ignored : nextOf (exec (.wrTmrValue 5#32) st) = some st := by decide

/-! ### The sequencer (sections 2.2 to 2.4) -/

/-- V-AVG-4, V-AVG-5, V-AVG-8, V-AVG-9. -/
theorem test_average :
    average 16379 4 = 4094#12 ∧ average 828 8 = 103#12 ∧ average 262080 64 = 4095#12 ∧ average 4095 64 = 63#12 := by decide
/-- V-SEQ-2, V-SEQ-3, V-SEQ-4. -/
theorem test_wrAdcCtl :
    (nextOf (exec (.wrAdcCtl 0xFFFFF8D6#32) st)).map readAdcCtl = some 0x16#32 ∧
    faultOf (exec (.wrAdcCtl 0x031#32) st) = some .F02 ∧ faultOf (exec (.wrAdcCtl 0x711#32) st) = some .F02 := by decide
/-- V-SEQ-5, V-SEQ-6. -/
theorem test_wrAdcCtl_busy :
    faultOf (exec (.wrAdcCtl 0x311#32) (busyAt 1 [7#12] [] st)) = some .F03 ∧
    (nextOf (exec (.wrAdcCtl 0#32) (busyAt 1 [7#12] [] st))).map (·.seq) =
      some { busy := false, step := 0, pending := false, fifo := [7#12] } := by decide
/-- V-SEQ-8, V-SEQ-9. -/
theorem test_wrAdcStepcfg :
    (nextOf (exec (.wrAdcStepcfg 0xFF360100#32) st)).map readAdcStepcfg = some 0x3F360100#32 ∧
    faultOf (exec (.wrAdcStepcfg 0x30#32) (busyAt 0 [] [] st)) = some .F03 := by decide
/-- V-SEQ-13, V-SEQ-14. -/
theorem test_wrAdcPssi :
    (nextOf (exec (.wrAdcPssi 2#32) (adcOn 0#2 0#3 0#32))).map (·.seq.pending) = some false ∧
    (nextOf (exec (.wrAdcPssi 1#32) (adcOn 0#2 0#3 0#32))).map (·.seq.pending) = some true := by decide
/-- V-SEQ-17, V-SEQ-19, V-SEQ-20. -/
theorem test_seqStart :
    faultOf (perform .seqStart (adcOn 2#2 0#3 0#32)) = some .F04 ∧
    (nextOf (perform .seqStart (adcOn 2#2 0#3 0x30#32))).map (·.seq.busy) = some true ∧
    (nextOf (perform .seqStart (adcOn 1#2 0#3 0x30#32))).map (·.seq.busy) = some false := by decide
/-- V-CNV-1. -/
theorem test_seqConv_end :
    (nextOf (perform .seqConv (busyAt 2 [1#12, 2#12]
        [100#12, 101#12, 102#12, 103#12, 104#12, 105#12, 106#12, 107#12] (adcOn 1#2 3#3 0x00360100#32)))).map
      (fun t => (t.seq, t.adc.ris)) =
    some ({ busy := false, step := 0, pending := false, fifo := [1#12, 2#12, 103#12] }, 1#3) := by decide
/-- V-CNV-3, V-CNV-4. -/
theorem test_seqConv_full_and_request :
    (nextOf (perform .seqConv (busyAt 0 [1#12, 2#12, 3#12, 4#12] [9#12] (adcOn 1#2 0#3 0x30#32)))).map
      (fun t => (t.seq.fifo.length, t.adc.ris)) = some (4, 3#3) ∧
    (nextOf (perform .seqConv
        { busyAt 0 [] [9#12] (adcOn 1#2 0#3 0x30#32) with
          adc := { (adcOn 1#2 0#3 0x30#32).adc with dmaEn := true }, sge := (engine .idle false []).sge })).map
      (·.sge.req) = some 1#32 := by decide
/-- V-CNV-7, V-CNV-8. -/
theorem test_rdAdcFifo :
    (nextOf (exec .rdAdcFifo { st with seq := { st.seq with fifo := [0x5A3#12, 0x010#12] } })).map
      (fun t => (t.rdata, t.seq.fifo)) = some (0x5A3#32, [0x010#12]) ∧
    (nextOf (exec .rdAdcFifo st)).map (·.adc.ris) = some 4#3 := by decide
/-- V-CNV-12. -/
theorem test_rdAdcFstat :
    (nextOf (exec .rdAdcFstat { st with
        seq := { busy := true, step := 0, pending := true, fifo := [1#12, 2#12, 3#12, 4#12] } })).map (·.rdata) =
      some 0x00031004#32 := by decide
/-- V-CNV-13 to V-CNV-18. -/
theorem test_status :
    readAdcIsc { st with adc := { st.adc with ris := 3#3, im := 1#3 } } = 1#32 ∧
    adcIrq { st with adc := { st.adc with ris := 3#3, im := 1#3 } } = true ∧
    (nextOf (exec (.wrAdcIsc 2#32) { st with adc := { st.adc with ris := 3#3 } })).map (·.adc.ris) = some 1#3 ∧
    (nextOf (exec (.wrAdcRis 1#32) { st with adc := { st.adc with ris := 1#3 } })).map (·.adc.ris) = some 1#3 ∧
    (nextOf (exec (.wrAdcIm 0xFFFFFFFF#32) st)).map readAdcIm = some 7#32 := by decide

/-! ### The engine (sections 2.5 to 2.8) -/

/-- V-SG-1, V-SG-2, V-SG-3. -/
theorem test_sgConfiguration :
    (nextOf (exec (.wrSgCtlbase 0x200004FF#32) st)).map (·.sge.ctlBase) = some 0x20000400#32 ∧
    faultOf (exec (.wrSgCtlbase 0x20000800#32) (engine .idle false [])) = some .F08 ∧
    faultOf (exec (.wrSgCfg 0#32) (engine (.active .inf true) false [])) = some .F08 := by decide
/-- V-SG-4, V-SG-5, V-SG-6. -/
theorem test_sgServedChannel :
    faultOf (exec (.wrSgEnaclr 1#32) (engine (.active .inf true) false [])) = some .F08 ∧
    (nextOf (exec (.wrSgEnaclr 2#32) (engine (.active .inf true) false []))).map (·.sge.enable) = some 1#32 ∧
    faultOf (exec (.wrSgAltset 1#32) (engine (.active .inf true) false [])) = some .F08 ∧
    faultOf (exec (.wrSgAltclr 1#32) (engine (.active .inf true) false [])) = some .F08 := by decide
/-- V-SG-9, V-SG-10. -/
theorem test_wrSgSwreq :
    (nextOf (exec (.wrSgSwreq 9#32) (engine .idle false []))).map (·.sge.req) = some 1#32 ∧
    (nextOf (exec (.wrSgSwreq 8#32) { st with sge := { st.sge with enable := 8#32 } })).map (·.sge.req) = some 0#32 := by
  decide
/-- V-SG-13 to V-SG-16. -/
theorem test_sgStatus :
    (nextOf (exec (.wrSgDone 1#32) { st with sge := { st.sge with done := 3#32 } })).map (·.sge.done) = some 2#32 ∧
    (nextOf (exec (.wrSgDoneim 1#32) { st with sge := { st.sge with done := 1#32 } })).map sgIrq = some true ∧
    (nextOf (exec (.wrSgErrclr 1#32) { st with sge := { st.sge with err := true } })).map sgErrIrq = some false ∧
    readSgActive (engine (.active .inf true) false []) = 1#32 := by decide

/-- V-CTL-1, V-CTL-2, V-CTL-3, V-CTL-7, V-CTL-8. -/
theorem test_checkCtl_modes :
    (checkCtl .memSg (ctlFields 0xAA008074#32) false true true).isOk = true ∧
    (checkCtl .memSg (ctlFields 0xAA008064#32) false true true) = .error .F07 ∧
    (checkCtl .memSg (ctlFields 0xAA008064#32) false true false).isOk = true ∧
    (checkCtl .altSg (ctlFields 0xEE000005#32) false false true) = .error .F05 ∧
    (checkCtl .memSg (ctlFields 0xAA008074#32) true false true) = .error .F05 := ⟨rfl, rfl, rfl, rfl, rfl⟩
/-- V-CTL-9 to V-CTL-15. -/
theorem test_checkCtl_fields :
    [0x33000001#32, 0x21000001#32, 0x22000001#32, 0x00040001#32, 0x0002C001#32, 0x00000009#32, 0x00000074#32].all
      (fun w => !fieldsLegal (ctlMode w) (ctlFields w)) = true := by decide
/-- Section 2.6: write-back and element addresses. -/
theorem test_writeBack :
    writeBack .memSg (ctlFields 0xAA008074#32) = 0xAA008064#32 ∧
    writeBack .memSg (ctlFields 0xAA008004#32) = 0xAA008000#32 ∧
    writeBack .altSg (ctlFields 0xEE000005#32) = 0xEE000000#32 ∧
    writeBack .basic (ctlFields 0x00004031#32) = 0x00004021#32 := by decide
theorem test_addresses :
    srcAddr (ctlFields 0xAA008074#32) 0x2000011C#32 = 0x20000100#32 ∧
    dstAddr .memSg (ctlFields 0xAA008074#32) 0x2000060C#32 false = 0x20000600#32 ∧
    dstAddr .memSg (ctlFields 0xAA008044#32) 0x2000060C#32 false = 0x2000060C#32 ∧
    srcAddr (ctlFields 0x55000022#32) 0x20000304#32 = 0x20000300#32 ∧
    dstAddr .auto (ctlFields 0x55000022#32) 0x20000314#32 false = 0x20000310#32 := by decide

/-- V-MODE-1 and V-CTL-16: STOP at an accept disables the channel, whatever the other fields. -/
theorem test_accept_stop :
    (nextOf (step { withWord 0x20000408#32 0xFFFFFFF8#32 (engine .idle false [true]) with
        sge := { (engine .idle false []).sge with req := 1#32 },
        env := { st.env with script := [.sgAccept 0], responses := [true] } })).map
      (fun t => (t.sge.enable, t.sge.req, t.sge.done)) = some (0#32, 0#32, 0#32) := by decide
/-- The accept of P2 line 16: 0xAA008074 starts a chain run. -/
theorem test_accept_memSg :
    (nextOf (exec (.sgctlMemSg (ctlFields 0xAA008074#32)) (fetched 0#32 0#32 (engine .idle false [])))).map
      (fun t => t.sge.rs[0]) = some (.active .inf true) := by decide
/-- P2 line 20: the fourth word of a task selects the alternate. -/
theorem test_fetch_task_word :
    (nextOf (exec (.sgctlMemSg (ctlFields 0xAA008044#32))
        (fetched 0x2000011C#32 0x2000060C#32
          (withWord 0x2000010C#32 5#32 (engine (.active .inf true) false [true, true, true]))))).map
      (fun t => (memRead t.mem 0x2000060C#32 .word, memRead t.mem 0x20000408#32 .word, t.sge.altSel)) =
    some (5#32, 0xAA008034#32, 1#32) := by decide
/-- P2 line 21: the copy task pops ADC_FIFO into SMP and returns to the primary. -/
theorem test_copy_task :
    (nextOf (exec (.sgctlAltSg (ctlFields 0xEE000005#32))
        (fetched 0x40000118#32 0x20000200#32
          { engine (.active .inf true) true [true, true] with seq := { st.seq with fifo := [0x5A3#12] } }))).map
      (fun t => (memRead t.mem 0x20000200#32 .word, memRead t.mem 0x20000608#32 .word, t.sge.altSel, t.seq.fifo)) =
    some (0x5A3#32, 0xEE000000#32, 0#32, []) := by decide
/-- P2 line 26: the re-arm task restores the primary and completes the run with the channel enabled. -/
theorem test_rearm_task :
    (nextOf (exec (.sgctlAuto (ctlFields 0xEE000002#32))
        (fetched 0x20000210#32 0x20000408#32
          (withWord 0x20000210#32 0xAA008074#32 (engine (.active .inf true) true [true, true, true, true]))))).map
      (fun t => (memRead t.mem 0x20000408#32 .word, t.sge.altSel, t.sge.done, t.sge.enable, t.sge.rs[0])) =
    some (0xAA008074#32, 0#32, 1#32, 1#32, .idle) := by decide
/-- V-SG-ERR-2: an error on the template's read leaves the primary STOP, and the completion disables the channel. -/
theorem test_rearm_error :
    (nextOf (exec (.sgctlAuto (ctlFields 0xEE000002#32))
        (fetched 0x20000210#32 0x20000408#32
          (withWord 0x20000408#32 0xAA008000#32 (engine (.active .inf true) true [false, true, true]))))).map
      (fun t => (memRead t.mem 0x20000408#32 .word, t.sge.err, t.sge.done, t.sge.enable)) =
    some (0xAA008000#32, true, 1#32, 0#32) := by decide
/-- R158, K30: an error on the completion's read of the primary disables the channel, and no DONE is set. -/
theorem test_completion_error :
    (nextOf (exec (.sgctlAuto (ctlFields 0xEE000002#32))
        (fetched 0x20000210#32 0x20000300#32
          (withWord 0x20000210#32 5#32 (engine (.active .inf true) true [true, true, true, false]))))).map
      (fun t => (memRead t.mem 0x20000300#32 .word, t.sge.err, t.sge.done, t.sge.enable, t.sge.altSel, t.sge.rs[0])) =
    some (5#32, true, 0#32, 0#32, 0#32, .idle) := by decide
/-- V-MODE-2's first and second element: a byte is copied; the burst's end waits for the next request. -/
theorem test_basic_burst :
    (nextOf (exec (.sgctlBasic (ctlFields 0x00004031#32))
        (fetched 0x20000013#32 0x20000023#32
          { engine (.active (.elems 2) false) false [true, true, true] with mem := [(0x20000010, 0x5A#8)] }))).map
      (fun t => (memByte t.mem 0x20000020#32, memRead t.mem 0x20000408#32 .word, t.sge.rs[0])) =
    some (0x5A#8, 0x00004021#32, .active (.elems 1) false) ∧
    (nextOf (exec (.sgctlBasic (ctlFields 0x00004021#32))
        (fetched 0x20000013#32 0x20000023#32 (engine (.active (.elems 1) false) false [false, true])))).map
      (fun t => (t.sge.rs[0], t.sge.enable, t.sge.done)) = some (.idle, 1#32, 0#32) := by decide
/-- V-MODE-4. -/
theorem test_misaligned :
    faultOf (exec (.sgctlAuto (ctlFields 0x55000022#32))
      (fetched 0x20000305#32 0x20000314#32 (engine (.active .inf false) false []))) = some .F09 := by decide
/-- V-MODE-5, V-MODE-7, V-MODE-8. -/
theorem test_reserved_modes :
    faultOf (exec (.sgctlRsvd3 (ctlFields 0x00000003#32)) (fetched 0#32 0#32 (engine .idle false []))) = some .F05 ∧
    faultOf (exec (.sgctlRsvd6 (ctlFields 0xAA008076#32)) (fetched 0#32 0#32 (engine .idle false []))) = some .F05 ∧
    faultOf (exec (.sgctlRsvd7 (ctlFields 0xEE000007#32)) (fetched 0#32 0#32 (engine (.active .inf true) true []))) =
      some .F05 := by decide
/-- V-SG-ERR-1: an error on the accept's read drops the channel. -/
theorem test_structure_error :
    (nextOf (step { engine .idle false [] with
        sge := { (engine .idle false []).sge with req := 1#32 },
        env := { st.env with script := [.sgAccept 0], responses := [false] } })).map
      (fun t => (t.sge.err, t.sge.enable, t.sge.req, t.sge.done)) = some (true, 0#32, 0#32, 0#32) := by decide
/-- V-DEC-5, V-DEC-7: the engine's reads of the window. -/
theorem test_engine_window_reads :
    (sgeRead st 0x40000300#32 .word).1 = none ∧
    (sgeRead { st with seq := { st.seq with fifo := [5#12] } } 0x40000118#32 .word).1 = some 5#32 ∧
    (sgeRead { st with seq := { st.seq with fifo := [5#12] } } 0x40000118#32 .word).2.seq.fifo = [] := by decide
/-- V-DEC-1, V-DEC-4, for the host. -/
theorem test_host_bus_error :
    faultOf (hostTxn 4 0x0300#13 0#32 st) = some .F10 ∧ faultOf (hostTxn 1 0x1114#13 1#32 st) = some .F10 := by decide

/-- R49's byte order. -/
theorem test_little_endian :
    memWrite [] 0x20000200#32 .word 0x11223344#32 =
      [(0x20000200, 0x44#8), (0x20000201, 0x33#8), (0x20000202, 0x22#8), (0x20000203, 0x11#8)] ∧
    memRead (memWrite [] 0x20000200#32 .word 0x11223344#32) 0x20000202#32 .half = 0x1122#32 := by decide

/-! ### The procedures (spec/43_pipeline_procedures.md) -/

/-- R179's and R181's examples, and R80's word. -/
theorem test_procedures :
    stepBytesWord [0#4, 1#4, 6#4] = 0x00360100#32 ∧ reloadData 16000000 8000 = some 0x7CF#32 ∧
    reloadData 16000000 16000000 = some 0#32 ∧ reloadValue 16000000 16000001 = -1 ∧
    configureScript [0#4, 1#4, 2#4, 3#4, 4#4] 0#3 = none ∧
    templateWord = ctlWord .memSg ⟨2, 2, 2, 2, 0, 2, 7, 0⟩ := by decide

/-- K3: L = 2^32 + 4 is not representable in 32 bits; its low 32 bits are written. -/
theorem test_reload_truncated : reloadData 0x100000005 1 = some 4#32 := by decide

/-- A state and where the host stands in a blocking read, after its next access. -/
def accessed (p : BlockingRead) (s : State) : Option (Word × BlockingRead) :=
  match blockingReadAccess 0#4 p s with
  | .next (t, q) => some (t.rdata, q)
  | .fault _ => none
  | .refused _ => none

/-- R193: ADC_RIS is read again until bit 0 is 1; then INR is cleared and the FIFO read. -/
theorem test_blocking_read :
    accessed (.setup 4) st = some (0#32, .poll) ∧
    accessed .poll { st with adc := { st.adc with ris := 6#3 } } = some (6#32, .poll) ∧
    accessed .poll { st with adc := { st.adc with ris := 1#3 } } = some (1#32, .clear) ∧
    accessed .clear st = some (0#32, .result) ∧
    accessed .result { st with seq := { st.seq with fifo := [5#12] } } = some (5#32, .done 5#32) := by decide

/-! ### States that meet the statements' hypotheses -/

theorem witness_EncodedInstructionDecodesBack :
    wellFormed (.busErr 4 0x1FFF#13 0xFFFFFFFF#32) = true ∧ wellFormed (.busErr 0 0x000#13 0#32) = true ∧
    wellFormed (.sgctlRsvd7 ⟨3, 3, 3, 3, 63, 15, 1023, 1⟩) = true := by decide

theorem witness_TransactionWordMatchesOneRow :
    txnOffset 0x0000#13 = regOffset .tmrCtl ∧ txnOffset 0x1228#13 = regOffset .sgActive ∧
    (3 : Nat) ≠ 4 ∧ ∀ r : Reg, txnOffset 0x022C#13 ≠ regOffset r ∧ txnOffset 0x1FFF#13 ≠ regOffset r := by
  refine ⟨by decide, by decide, by decide, fun r => ?_⟩
  cases r <;> decide

theorem witness_StepPerformsTheNextOperation :
    ({ st with env := { st.env with script := [.reg 4 0x0004#13 0#32] } } : State).fault = none ∧
    (nextOp { st with env := { st.env with script := [.reg 4 0x0004#13 0#32] } }).1 = .reg 4 0x0004#13 0#32 ∧
    txnRow (txnBytes 0x0004#13 0#32) = some .rdTmrLoad ∧ wellFormed .rdTmrLoad = true ∧
    st.fault = none ∧ st.env.script = [] := by decide

/-- `engine` with the operation op to come and a request latched. -/
def serving (r : RunState) (op : Op) (oks : List Bool) : State :=
  { engine r false oks with sge := { (engine r false oks).sge with req := 1#32 },
                            env := { st.env with script := [op], responses := oks } }

theorem witness_StepRunsFetchedControlWord_accept :
    (nextOp (serving .idle (.sgAccept 0) [true])).1 = .sgAccept 0 ∧
    acceptEnabled 0 (nextOp (serving .idle (.sgAccept 0) [true])).2 = true ∧
    (fetchAccept 0 (nextOp (withWord 0x20000408#32 2#32 (serving .idle (.sgAccept 0) [true]))).2).1 = some 2#32 := by decide

theorem witness_StepRunsFetchedControlWord_elem :
    (nextOp (serving (.active .inf false) (.sgElem 0) [])).1 = .sgElem 0 ∧
    elemEnabled 0 (nextOp (serving (.active .inf false) (.sgElem 0) [])).2 = true ∧
    (fetchElem 0 (withWord 0x20000400#32 0#32 (withWord 0x20000404#32 0#32 (withWord 0x20000408#32 2#32
      (engine (.active .inf false) false [true, true, true]))))).1 = some 2#32 := by decide

theorem witness_StepRunsFetchedControlWord_fetch :
    let s := engine (.active .inf true) true [true, true, true]
    let base := s.sge.ctlBase + BitVec.ofNat 32 ((if hasChan s.sge.altSel 0 then 0x200 else 0) + 16 * (0 : Chan).val)
    Outside s base ∧ Outside s (base + 4#32) ∧ Outside s (base + 8#32) ∧
    (∃ u, busAnswers [(base + 8#32, .word, .read)] s = ([true], u)) ∧
    ∃ u, busAnswers [(base, .word, .read), (base + 4#32, .word, .read), (base + 8#32, .word, .read)] s =
      ([true, true, true], u) := by
  unfold Outside
  refine ⟨by decide, by decide, by decide, ⟨_, rfl⟩, ⟨_, rfl⟩⟩

theorem witness_FaultEndsTheRun :
    faultOf (step { st with env := { st.env with script := [.reg 4 0x0300#13 0#32] } }) = some .F10 ∧
    ({ st with fault := some .F01 } : State).fault = some .F01 := by decide

theorem witness_DisabledStepChangesNothing :
    st.tmr.en = false ∧ st.adc.seqEn = false ∧ st.seq.busy = false ∧ st.sge.rs[(31 : Chan)] = .idle ∧ st.sge.masterEn = false ∧
    hasChan (engine .idle false []).sge.enable 1 = false ∧ hasChan (engine .idle false []).sge.req 0 = false ∧
    (engine (.active .inf true) false []).sge.rs[(0 : Chan)] ≠ .idle := by decide

/-- A running timer, a running sequence and a served channel. -/
def running : State :=
  { busyAt 0 [7#12] [] (adcOn 1#2 0#3 0x30#32) with
    tmr := tmr true true true 3#32 0#32
    sge := (engine (.active (.elems 2) false) false []).sge
    env := { st.env with script := [.tick] } }

theorem witness_StepKeepsTheInvariant : Inv running ∧ (nextOf (step running)).isSome = true := by
  have idle : ∀ c : Chan, c ≠ 0 → running.sge.rs[c] = .idle := by decide
  have act : ∀ c : Chan, (running.sge.rs[c]).isActive = true → c = 0 := by decide
  refine ⟨⟨⟨by unfold timerLoadOk; decide, by unfold adcCodesOk; decide, by unfold fifoOk; decide,
    by unfold sequenceOk; decide, by unfold pendingOk; decide, by unfold tableOk; decide,
    fun c d hc hd => (act c hc).trans (act d hd).symm, fun c hc => ?_, fun c n ch h => ?_, by unfold memOk; decide⟩, rfl⟩,
    by decide⟩
  · rw [act c hc]
    decide
  · by_cases h0 : c = 0
    · subst h0
      have h1 : running.sge.rs[(0 : Chan)] = .active (.elems 2) false := by decide
      rw [h1] at h
      cases h
      decide
    · rw [idle c h0] at h
      cases h

theorem witness_WriteTmrCtlLoadsOnEnable :
    ((0x7#32).getLsbD 0 = true ∧ (0x7#32).getLsbD 1 = true ∧ st.tmr.load = 0#32) ∧
    ¬ ((0x5#32).getLsbD 0 = true ∧ (0x5#32).getLsbD 1 = true ∧ st.tmr.load = 0#32) := by decide

theorem witness_WriteTmrLoadKeepsTheCounter :
    (running.tmr.en = true ∧ running.tmr.periodic = true ∧ (0#32) = 0#32) ∧
    ¬ (running.tmr.en = true ∧ running.tmr.periodic = true ∧ (1#32) = 0#32) := by decide

theorem witness_TickCountsOrTimesOut :
    running.tmr.en = true ∧ running.tmr.value = 0#32 ∧ running.tmr.periodic = true ∧
    (tmr true false true 2#32 0#32).periodic = false ∧ (tmr true false true 2#32 0xFFFFFFFF#32).value ≠ 0#32 := by decide

theorem witness_PeriodicTimeoutsAreLoadPlusOneApart :
    let s := { st with tmr := tmr true true true 1#32 1#32 }
    s.tmr.en = true ∧ s.tmr.periodic = true ∧ s.tmr.value = s.tmr.load ∧ s.tmr.load ≠ 0#32 := by decide

theorem witness_OneShotTimesOutOnce :
    let s := { st with tmr := tmr true false true 0#32 0#32 }
    s.tmr.en = true ∧ s.tmr.periodic = false ∧ s.tmr.value = s.tmr.load := by decide

theorem witness_WriteAdcCtlConfiguresOrAborts :
    (0x30#32).extractLsb' 4 2 = 3#2 ∧ (0x700#32).extractLsb' 8 3 = 7#3 ∧
    (0x611#32).extractLsb' 4 2 ≠ 3#2 ∧ (0x611#32).extractLsb' 8 3 ≠ 7#3 ∧ running.seq.busy = true ∧
    (0x611#32).getLsbD 0 = true ∧ ¬ (running.seq.busy = true ∧ (0x610#32).getLsbD 0 = true) := by decide

theorem witness_WriteStepcfgStoresEveryStep : running.seq.busy = true ∧ st.seq.busy = false := by decide

theorem witness_FifoReadPopsOrUnderflows : running.seq.fifo = [7#12] ∧ st.seq.fifo = [] := by decide

theorem witness_FifoStatusReadsTheFields :
    fifoOk st ∧ fifoOk { st with seq := { st.seq with fifo := [1#12, 2#12, 3#12, 4#12] } } := by
  unfold fifoOk
  decide

theorem witness_SequenceStart :
    let s := adcOn 2#2 0#3 0x30000000#32
    (s.adc.seqEn = true ∧ s.seq.busy = false ∧ s.adc.trig = 2#2) ∧ (s.adc.steps[(3 : StepIx)]).last = true ∧
    ∀ k : StepIx, ((adcOn 2#2 0#3 0#32).adc.steps[k]).last = false := by decide

theorem witness_OversamplingReportsTheFloorOfTheMean :
    ({ st with env := { st.env with samples := [1#12, 2#12, 3#12] } } : State).env.samples = [1#12, 2#12] ++ [3#12] ∧
    (6 : Nat) ≤ 6 := by decide

theorem witness_ConversionStep : running.seq.busy = true := by decide

theorem witness_SequenceConvertsUpToTheFirstEnd :
    let s := busyAt 0 [] [] (adcOn 1#2 0#3 0x30000000#32)
    s.seq.busy = true ∧ s.seq.step = 0 ∧ (s.adc.steps[(3 : StepIx)]).last = true ∧
    (∀ k : StepIx, k.val < 3 → (s.adc.steps[k]).last = false) ∧ (running.adc.steps[(0 : StepIx)]).last = true := by decide

theorem witness_EngineReadsReturnTheRegisters : tableOk (engine .idle false []) := by
  unfold tableOk
  decide

theorem witness_ActiveReadShowsTheServedChannel : oneActive running ∧ running.sge.rs[(0 : Chan)] ≠ .idle :=
  ⟨witness_StepKeepsTheInvariant.1.core.one, by decide⟩

theorem witness_EngineWrites :
    (0#32).getLsbD 0 = false ∧ running.sge.rs[(0 : Chan)] ≠ .idle ∧ (∀ c : Chan, st.sge.rs[c] = .idle) ∧
    hasChan running.sge.enable 0 = true ∧ (∀ c : Chan, hasChan st.sge.enable c = false) ∧
    hasChan 1#32 (0 : Chan) = true ∧
    (∀ c : Chan, hasChan 0xFFFFFFFE#32 c = true → running.sge.rs[c] = .idle) := by decide

theorem witness_ArbitrationEnablesOneAtATime :
    acceptEnabled 0 (serving .idle .tick []) = true ∧ elemEnabled 0 running = true := by decide

theorem witness_AcceptStartsTheRun :
    (fetched 0#32 0#32 (engine .idle false [])).sge.rs[(0 : Chan)] = .idle ∧
    FieldsFit .basic ⟨0, 0, 3, 0, 0, 10, 1023, 0⟩ ∧ FieldsFit .auto ⟨3, 2, 2, 2, 0, 0, 0, 0⟩ ∧
    FieldsFit .memSg ⟨2, 2, 2, 2, 0, 2, 3, 0⟩ ∧ hasChan (engine .idle false []).sge.altSel 0 = false ∧
    ((3#10).toNat + 1) % 4 = 0 := by
  unfold FieldsFit
  decide

theorem witness_StopDisablesOrCompletes :
    (fetched 0#32 0#32 st).sge.rs[(fetched 0#32 0#32 st).latch.chan] = .idle ∧
    running.sge.rs[running.latch.chan] ≠ .idle := by decide

theorem witness_ControlWordCheck :
    ¬ ModeFits .altSg true false ∧ ModeFits .memSg false true ∧ ¬ FieldsFit .memSg ⟨2, 2, 2, 2, 0, 11, 7, 0⟩ ∧
    FieldsFit .memSg ⟨2, 2, 2, 2, 0, 10, 6, 0⟩ ∧ ((6#10).toNat + 1) % 4 ≠ 0 := by
  unfold ModeFits FieldsFit
  decide

/-- An accept on the primary and on the alternate, and element steps in a chain run and outside one. -/
theorem witness_ControlWordCheck_exec :
    let s := fun r alt => fetched 0#32 0#32 (engine r alt [])
    ((s .idle false).sge.rs[(s .idle false).latch.chan] = .idle ∧
      hasChan (s .idle false).sge.altSel (s .idle false).latch.chan = false ∧
      hasChan (s .idle true).sge.altSel (s .idle true).latch.chan = true) ∧
    ((s (.active .inf true) true).sge.rs[(s (.active .inf true) true).latch.chan] = .active .inf true ∧
      ¬ ModeFits .memSg true true ∧ ModeFits .altSg true true) ∧
    ((s (.active .inf false) true).sge.rs[(s (.active .inf false) true).latch.chan] = .active .inf false ∧
      ¬ ModeFits .altSg true false) := by
  unfold ModeFits
  decide

/-- A word transfer of channel 0 from `src` to `dst`, and what its statements ask of the state. -/
def copying (alt : Bool) (oks : List Bool) : State :=
  fetched 0x20000304#32 0x20000404#32 (engine (.active .inf true) alt oks)

theorem witness_ElementIsCopiedAndCounted :
    let s := copying true [true, true, true]
    let f : CtlFields := ⟨2, 2, 2, 2, 0, 0, 1, 0⟩
    s.sge.rs[s.latch.chan] = .active .inf true ∧ hasChan s.sge.altSel s.latch.chan = true ∧ FieldsFit .altSg f ∧
    1 ≤ f.xferSize.toNat ∧
    (srcAddr f s.latch.srcEnd).toNat % sizeBytes (sizeOfCode f.srcSize) = 0 ∧
    (dstAddr .altSg f s.latch.dstEnd true).toNat % sizeBytes (sizeOfCode f.srcSize) = 0 ∧
    Outside s (srcAddr f s.latch.srcEnd) ∧ Outside s (dstAddr .altSg f s.latch.dstEnd true) ∧
    Outside s (structAddr s s.latch.chan + 8#32) ∧
    ∃ u, busAnswers [(srcAddr f s.latch.srcEnd, .word, .read), (dstAddr .altSg f s.latch.dstEnd true, .word, .write),
      (structAddr s s.latch.chan + 8#32, .word, .write)] s = ([true, true, true], u) := by
  unfold Outside FieldsFit
  refine ⟨by decide, by decide, by decide, by decide, by decide, by decide, by decide, by decide, by decide, ⟨_, rfl⟩⟩

theorem witness_TaskWordIsFetched :
    let s := copying false [true, true, true]
    hasChan s.sge.altSel s.latch.chan = false ∧ s.sge.rs[s.latch.chan] = .active .inf true ∧
    FieldsFit .memSg ⟨2, 2, 2, 2, 0, 0, 0, 0⟩ ∧ s.latch.srcEnd.toNat % 4 = 0 ∧ s.latch.dstEnd.toNat % 4 = 0 ∧
    Outside s s.latch.srcEnd ∧ Outside s s.latch.dstEnd ∧
    Outside s (s.sge.ctlBase + BitVec.ofNat 32 (16 * s.latch.chan.val) + 8#32) ∧
    ∃ u, busAnswers [(s.latch.srcEnd, .word, .read), (s.latch.dstEnd, .word, .write),
      (s.sge.ctlBase + BitVec.ofNat 32 (16 * s.latch.chan.val) + 8#32, .word, .write)] s = ([true, true, true], u) := by
  unfold Outside FieldsFit
  refine ⟨by decide, by decide, by decide, by decide, by decide, by decide, by decide, by decide, ⟨_, rfl⟩⟩

theorem witness_LastElementReturnsOrCompletes :
    let s := copying true [true, true, true]
    let f : CtlFields := ⟨3, 2, 3, 2, 0, 0, 0, 0⟩
    s.sge.rs[s.latch.chan] = .active .inf true ∧ FieldsFit .auto f ∧ f.xferSize = 0#10 ∧
    hasChan s.sge.altSel s.latch.chan = true ∧ s.latch.srcEnd.toNat % 4 = 0 ∧ s.latch.dstEnd.toNat % 4 = 0 ∧
    Outside s s.latch.srcEnd ∧ Outside s s.latch.dstEnd ∧ Outside s (structAddr s s.latch.chan + 8#32) ∧
    ∃ u, busAnswers [(s.latch.srcEnd, .word, .read), (s.latch.dstEnd, .word, .write),
      (structAddr s s.latch.chan + 8#32, .word, .write)] s = ([true, true, true], u) := by
  unfold Outside FieldsFit
  refine ⟨by decide, by decide, by decide, by decide, by decide, by decide, by decide, by decide, by decide, ⟨_, rfl⟩⟩

theorem witness_LastElementReturnsOrCompletes_fifo :
    let s := fetched 0x40000118#32 0x20000200#32
      { engine (.active .inf true) true [true, true] with seq := { st.seq with fifo := [5#12] } }
    s.latch.srcEnd = s.blockPage ++ 0x118#12 ∧ s.seq.fifo = [5#12] ∧ s.latch.srcEnd.toNat % 4 = 0 ∧
    Outside s s.latch.dstEnd ∧
    ∃ u, busAnswers [(s.latch.dstEnd, .word, .write), (structAddr s s.latch.chan + 8#32, .word, .write)] s =
      ([true, true], u) := by
  unfold Outside
  refine ⟨by decide, by decide, by decide, by decide, ⟨_, rfl⟩⟩

/-- What the statements on a failed element or write-back ask of a state in a chain run, but for the bus's answers. -/
def ElementReady (s : State) (m : XferMode) (f : CtlFields) : Prop :=
  m ≠ .stop ∧ ModeFits m (hasChan s.sge.altSel s.latch.chan) true ∧ s.sge.rs[s.latch.chan] = .active .inf true ∧
  FieldsFit m f ∧ (srcAddr f s.latch.srcEnd).toNat % sizeBytes (sizeOfCode f.srcSize) = 0 ∧
  (dstAddr m f s.latch.dstEnd (hasChan s.sge.altSel s.latch.chan)).toNat % sizeBytes (sizeOfCode f.srcSize) = 0 ∧
  Outside s (srcAddr f s.latch.srcEnd) ∧
  Outside s (dstAddr m f s.latch.dstEnd (hasChan s.sge.altSel s.latch.chan)) ∧
  Outside s (structAddr s s.latch.chan + 8#32)

/-- Each mode that moves elements, with elements to come and with the last one. -/
theorem witness_elementReady :
    ElementReady (copying true []) .basic ⟨2, 2, 2, 2, 0, 0, 1023, 0⟩ ∧
    ElementReady (copying true []) .auto ⟨2, 2, 2, 2, 0, 0, 0, 0⟩ ∧
    ElementReady (copying true []) .altSg ⟨3, 2, 3, 2, 0, 0, 0, 0⟩ ∧
    ElementReady (copying true []) .altSg ⟨2, 2, 2, 2, 0, 0, 1, 0⟩ ∧
    ElementReady (copying false []) .memSg ⟨2, 2, 2, 2, 0, 0, 0, 0⟩ ∧
    ElementReady (copying false []) .memSg ⟨2, 2, 2, 2, 0, 0, 7, 0⟩ := by
  unfold ElementReady Outside FieldsFit ModeFits
  refine ⟨?_, ?_, ?_, ?_, ?_, ?_⟩ <;> refine ⟨?_, ?_, ?_, ?_, ?_, ?_, ?_, ?_, ?_⟩ <;> decide

/-- The two ways an element is lost, at the last element of an AUTO task. -/
theorem witness_ElementBusErrorLosesOneElement :
    let f : CtlFields := ⟨2, 2, 2, 2, 0, 0, 0, 0⟩
    ElementReady (copying true [false, true]) .auto f ∧ srcAddr f 0x20000304#32 = 0x20000304#32 ∧
    dstAddr .auto f 0x20000404#32 true = 0x20000404#32 ∧
    (∃ u, busAnswers [(0x20000304#32, .word, .read), (0x20000608#32, .word, .write)] (copying true [false, true]) =
      ([false, true], u)) ∧
    ∃ u, busAnswers [(0x20000304#32, .word, .read), (0x20000404#32, .word, .write), (0x20000608#32, .word, .write)]
      (copying true [true, false, true]) = ([true, false, true], u) :=
  ⟨witness_elementReady.2.1, by decide, by decide, ⟨_, rfl⟩, ⟨_, rfl⟩⟩

/-- The copy task of P3, whose write fails. -/
theorem witness_ElementBusErrorLosesOneElement_fifo :
    let s := fetched 0x40000118#32 0x20000200#32
      { engine (.active .inf true) true [false, true] with seq := { st.seq with fifo := [5#12] } }
    let f : CtlFields := ⟨3, 2, 3, 2, 0, 0, 0, 0⟩
    ModeFits .altSg true true ∧ FieldsFit .altSg f ∧ srcAddr f s.latch.srcEnd = s.blockPage ++ 0x118#12 ∧
    (srcAddr f s.latch.srcEnd).toNat % 4 = 0 ∧ s.seq.fifo = [5#12] ∧ Outside s (dstAddr .altSg f s.latch.dstEnd true) ∧
    ∃ u, busAnswers [(dstAddr .altSg f s.latch.dstEnd true, .word, .write), (structAddr s 0 + 8#32, .word, .write)] s =
      ([false, true], u) := by
  unfold Outside FieldsFit ModeFits
  refine ⟨by decide, by decide, by decide, by decide, by decide, by decide, ⟨_, rfl⟩⟩

theorem witness_MisalignedElementFaults :
    let s := fetched 0x20000305#32 0x20000314#32 (engine (.active .inf false) false [])
    let f : CtlFields := ⟨1, 1, 1, 1, 0, 0, 2, 0⟩
    ModeFits .auto false false ∧ FieldsFit .auto f ∧ s.sge.rs[s.latch.chan] = .active .inf false ∧
    (srcAddr f s.latch.srcEnd).toNat % sizeBytes (sizeOfCode f.srcSize) ≠ 0 := by
  unfold ModeFits FieldsFit
  decide

theorem witness_StructureBusErrorDropsTheChannel :
    let s := serving .idle .tick [false]
    let t := engine (.active .inf false) false [true, false, true]
    let v := copying false [true, true, false]
    acceptEnabled 0 s = true ∧ Outside s (structAddr s 0 + 8#32) ∧ elemEnabled 0 t = true ∧
    Outside t (structAddr t 0) ∧ Outside t (structAddr t 0 + 4#32) ∧
    (∃ u, busAnswers [(structAddr s 0 + 8#32, .word, .read)] s = ([false], u)) ∧
    (∃ u, busAnswers [(structAddr t 0, .word, .read), (structAddr t 0 + 4#32, .word, .read),
      (structAddr t 0 + 8#32, .word, .read)] t = ([true, false, true], u)) ∧
    (∃ u, busAnswers [(v.latch.srcEnd, .word, .read), (v.latch.dstEnd, .word, .write),
      (structAddr v 0 + 8#32, .word, .write)] v = ([true, true, false], u)) ∧
    (∃ u, busAnswers [(v.latch.srcEnd, .word, .read), (structAddr v 0 + 8#32, .word, .write)]
      (copying false [false, false]) = ([false, false], u)) ∧
    ∃ u, busAnswers [(v.latch.srcEnd, .word, .read), (v.latch.dstEnd, .word, .write),
      (structAddr v 0 + 8#32, .word, .write)] (copying false [true, false, false]) = ([true, false, false], u) := by
  unfold Outside
  refine ⟨by decide, by decide, by decide, by decide, by decide, ⟨_, rfl⟩, ⟨_, rfl⟩, ⟨_, rfl⟩, ⟨_, rfl⟩, ⟨_, rfl⟩⟩

theorem witness_CompletionTestsThePrimary :
    let at8 : Word := 0x20000408#32
    Outside running at8 ∧ (∃ u, busAnswers [(at8, .word, .read)] (copying true [true]) = ([true], u)) ∧
    ∃ u, busAnswers [(at8, .word, .read)] (copying true [false]) = ([false], u) := by
  unfold Outside
  refine ⟨by decide, ⟨_, rfl⟩, ⟨_, rfl⟩⟩

theorem witness_ErrorResponseFaultsOnlyTheHost :
    (2 : Nat) ≠ 4 ∧ Size.half ≠ .word ∧
    ∀ r : Reg, regOffset r ≠ txnOffset 0x000C#13 ∧ regOffset r ≠ 0x22C#12 := by
  refine ⟨by decide, by decide, fun r => ?_⟩
  cases r <;> decide

theorem witness_ControlWordOperandsAndWriteBack :
    (2#2) ≠ 3#2 ∧ (1023#10) ≠ 0#10 ∧ (0#10) = 0#10 ∧ ¬ (true = false ∧ XferMode.memSg = .memSg) := by decide

theorem witness_MemoryIsLittleEndianAndLocal :
    ∀ k, k < sizeBytes .word → (0x0#32) ≠ 0xFFFFFFFB#32 + BitVec.ofNat 32 k := by decide

theorem witness_HostMemoryAccess : Outside st 0x3FFFFFFF#32 ∧ Outside st 0x40001000#32 := by
  unfold Outside
  decide

theorem witness_RegisterAccessFrame : (nextOf (hostTxn 4 0x0118#13 0#32 running)).isSome = true := by decide

end Sys2Proof.Tests
end

section
/-! PROOFS (spec/20_memory.md). The halves of a little-endian word, and the bytes a write leaves at the addresses it names. -/

namespace Sys2Proof.Laws

open Sys2Proof.Machine

/-! ### Halves of a word (R49) -/

theorem le32_eq_append_le16 (b0 b1 b2 b3 : Byte) : le32 b0 b1 b2 b3 = le16 b2 b3 ++ le16 b0 b1 :=
  BitVec.append_assoc

theorem extractLsb'_le32_low (b0 b1 b2 b3 : Byte) : (le32 b0 b1 b2 b3).extractLsb' 0 16 = le16 b0 b1 := by
  rw [le32_eq_append_le16, BitVec.extractLsb'_append_eq_right]

theorem extractLsb'_le32_high (b0 b1 b2 b3 : Byte) : (le32 b0 b1 b2 b3).extractLsb' 16 16 = le16 b2 b3 := by
  rw [le32_eq_append_le16, BitVec.extractLsb'_append_eq_left]

theorem byteOf_zero (w : Word) : byteOf w 0 = w.setWidth 8 :=
  (BitVec.setWidth_eq_extractLsb' (by decide)).symm

theorem le16_bytes (w : Word) : le16 (byteOf w 0) (byteOf w 1) = w.setWidth 16 := by
  rw [← extractLsb'_le32_low _ _ (byteOf w 2) (byteOf w 3), le32_bytes, BitVec.setWidth_eq_extractLsb' (by decide)]

/-! ### Reads as bytes (R49) -/

theorem memRead_word (m : Memory) (a : Word) :
    memRead m a .word = memByte m (a + 3#32) ++ memByte m (a + 2#32) ++ memByte m (a + 1#32) ++ memByte m a := rfl

theorem memRead_half_low (m : Memory) (a : Word) :
    memRead m a .half = ((memRead m a .word).extractLsb' 0 16).setWidth 32 := by
  simp only [memRead, extractLsb'_le32_low]

theorem memRead_half_high (m : Memory) (a : Word) :
    memRead m (a + 2#32) .half = ((memRead m a .word).extractLsb' 16 16).setWidth 32 := by
  have top : a + 2#32 + 1#32 = a + 3#32 := BitVec.add_assoc a 2#32 1#32
  simp only [memRead, extractLsb'_le32_high, top]

/-! ### The bytes written (R49, R61) -/

theorem memByte_memSet (m : Memory) (a x : Word) (b : Byte) :
    memByte (memSet m a.toNat b) x = if x = a then b else memByte m x := by
  split
  · next h => rw [h, memByte_memSet_self]
  · next h => exact memByte_memSet_other m b h

/-- The k-th byte of an access holds the value's k-th byte after the write: the access's other bytes lie at other addresses,
also where the access wraps around the end of the address space. -/
theorem memByte_memWrite (m : Memory) (a : Word) (size : Size) (v : Word) {k : Nat} (hk : k < sizeBytes size) :
    memByte (memWrite m a size v) (a + BitVec.ofNat 32 k) = byteOf v k := by
  cases size with
  | byte =>
    obtain rfl : k = 0 := Nat.lt_one_iff.mp hk
    simp [memWrite]
  | half =>
    simp only [sizeBytes] at hk
    interval_cases k <;> simp [memWrite, memByte_memSet, -BitVec.toNat_add]
  | word =>
    simp only [sizeBytes] at hk
    interval_cases k <;> simp [memWrite, memByte_memSet, -BitVec.toNat_add]

/-- A read returns the low bytes of the last write of the same size. -/
theorem memRead_memWrite (m : Memory) (a : Word) (size : Size) (v : Word) :
    memRead (memWrite m a size v) a size = (v.setWidth (8 * sizeBytes size)).setWidth 32 := by
  have written := fun k (hk : k < sizeBytes size) => memByte_memWrite m a size v hk
  have h0 : memByte (memWrite m a size v) a = byteOf v 0 := by
    simpa using written 0 (by cases size <;> decide)
  cases size with
  | byte => simp only [memRead, h0, byteOf_zero, sizeBytes]
  | half => simp only [memRead, h0, written 1 (by decide), le16_bytes, sizeBytes]
  | word =>
    simp only [memRead, h0, written 1 (by decide), written 2 (by decide), written 3 (by decide), le32_bytes, sizeBytes,
      Nat.reduceMul, BitVec.setWidth_eq]

/-- Settles O57: the halves of the word's bytes, the read-back of every byte written, and the frame of a write. -/
theorem memoryIsLittleEndianAndLocal : Obligations.MemoryIsLittleEndianAndLocal := by
  intro m a v size
  exact ⟨memRead_word m a, memRead_half_low m a, memRead_half_high m a, memRead_memWrite m a size v,
    memByte_memWrite_other m a size v⟩

end Sys2Proof.Laws
end

section
/-! PROOFS (spec/30_encoding.md). The instruction a register's transaction words stand for. -/

namespace Sys2Proof.Laws

open Sys2Proof.Machine Sys2Proof.Claims

theorem txnIs_readTxn (r : Reg) : TxnIs (readTxn r) 0#32 (readInstr r) := by
  simpa only [TxnIs, List.append_nil] using decode_readTxn r []

theorem txnIs_writeTxn (r : Reg) (d : Word) : TxnIs (writeTxn r) d (writeInstr r d) := by
  simpa only [TxnIs, List.append_nil] using decode_writeTxn r d []

/-- The registers whose writes complete and are ignored (R93, R109, R115, R117, R149). -/
theorem exec_writeInstr_of_readOnly (d : Word) (s : State) :
    ∀ r ∈ [Reg.tmrValue, .adcRis, .adcFifo, .adcFstat, .sgActive], exec (writeInstr r d) s = .next s := by
  intro r hr
  rw [exec_writeInstr]
  simp only [List.mem_cons, List.not_mem_nil, or_false] at hr
  rcases hr with rfl | rfl | rfl | rfl | rfl <;> rfl

/-- Settles O29: each of the five encodings is the write of a read-only register. -/
theorem readOnlyWritesAreIgnored : Obligations.ReadOnlyWritesAreIgnored := by
  intro s d
  have ignored := exec_writeInstr_of_readOnly d s
  exact ⟨txnIs_writeTxn .tmrValue d, txnIs_writeTxn .adcRis d, txnIs_writeTxn .adcFifo d, txnIs_writeTxn .adcFstat d,
    txnIs_writeTxn .sgActive d, ignored .tmrValue (by simp), ignored .adcRis (by simp), ignored .adcFifo (by simp),
    ignored .adcFstat (by simp), ignored .sgActive (by simp)⟩

end Sys2Proof.Laws
end

section
/-! PROOFS (spec/40_timer.md). The timer's register accesses, what one tick does in each of its cases, and the laws of a
run of ticks. -/

namespace Sys2Proof.Laws

open Sys2Proof.Machine

/-! ### Register accesses (R87 to R92) -/

theorem getLsbD_flags3 (b2 b1 b0 : Bool) (i : Nat) : (flags3 b2 b1 b0).getLsbD i = [b0, b1, b2].getD i false := by
  simp only [flags3, BitVec.getLsbD_setWidth, BitVec.getLsbD_append, BitVec.getLsbD_ofBool]
  match i with
  | 0 | 1 | 2 => simp
  | i + 3 => simp

theorem writeTmrCtl_of_zeroReload {d : Word} {s : State}
    (h : d.getLsbD 0 = true ∧ d.getLsbD 1 = true ∧ s.tmr.load = 0#32) : writeTmrCtl d s = .error .F01 := by
  obtain ⟨en, periodic, load⟩ := h
  simp [writeTmrCtl, raise, en, periodic, load]

theorem writeTmrCtl_of_legal {d : Word} {s : State}
    (h : ¬ (d.getLsbD 0 = true ∧ d.getLsbD 1 = true ∧ s.tmr.load = 0#32)) :
    writeTmrCtl d s = .ok { s with tmr :=
      { en := d.getLsbD 0, periodic := d.getLsbD 1, trigEn := d.getLsbD 2, load := s.tmr.load,
        value := if s.tmr.en = false ∧ d.getLsbD 0 = true then s.tmr.load else s.tmr.value } } := by
  have guard : ¬ (d.getLsbD 0 && d.getLsbD 1 && s.tmr.load == 0#32) = true := by
    simpa [and_assoc] using h
  simp only [writeTmrCtl, if_neg guard]
  simp only [Bool.and_eq_true, Bool.not_eq_true']

theorem writeTmrLoad_of_zeroReload {d : Word} {s : State}
    (h : s.tmr.en = true ∧ s.tmr.periodic = true ∧ d = 0#32) : writeTmrLoad d s = .error .F01 := by
  obtain ⟨en, periodic, load⟩ := h
  simp [writeTmrLoad, raise, en, periodic, load]

theorem writeTmrLoad_of_legal {d : Word} {s : State}
    (h : ¬ (s.tmr.en = true ∧ s.tmr.periodic = true ∧ d = 0#32)) :
    writeTmrLoad d s = .ok { s with tmr := { s.tmr with load := d } } := by
  have guard : ¬ (s.tmr.en && s.tmr.periodic && d == 0#32) = true := by
    simpa [and_assoc] using h
  rw [writeTmrLoad, if_neg guard]

theorem exec_wrTmrCtl (d : Word) (s : State) : exec (.wrTmrCtl d) s = outcomeOf (writeTmrCtl d s) :=
  exec_writeInstr .tmrCtl d s

theorem exec_wrTmrLoad (d : Word) (s : State) : exec (.wrTmrLoad d) s = outcomeOf (writeTmrLoad d s) :=
  exec_writeInstr .tmrLoad d s

/-- Settles O15: a register read answers `regRead`'s value, and TMR_CTL's is the three flags bit by bit. -/
theorem timerReadsReturnTheRegisters : Obligations.TimerReadsReturnTheRegisters := by
  refine ⟨txnIs_readTxn .tmrCtl, txnIs_readTxn .tmrLoad, txnIs_readTxn .tmrValue, fun s => ⟨?_, ?_, ?_⟩⟩
  · refine ⟨readTmrCtl s, exec_readInstr .tmrCtl s, getLsbD_flags3 .., getLsbD_flags3 .., getLsbD_flags3 .., ?_⟩
    intro i hi
    obtain ⟨j, rfl⟩ := Nat.exists_eq_add_of_le' hi
    exact getLsbD_flags3 ..
  · exact exec_readInstr .tmrLoad s
  · exact exec_readInstr .tmrValue s

/-- Settles O16: the fault and the effect of the write, one lemma for each side of its guard. -/
theorem writeTmrCtlLoadsOnEnable : Obligations.WriteTmrCtlLoadsOnEnable := by
  refine fun s d => ⟨txnIs_writeTxn .tmrCtl d, fun zero => ?_, fun legal => ?_⟩
  · rw [exec_wrTmrCtl, writeTmrCtl_of_zeroReload zero, outcomeOf]
  · rw [exec_wrTmrCtl, writeTmrCtl_of_legal legal, outcomeOf]

/-- Settles O17: the fault and the effect of the write, one lemma for each side of its guard. -/
theorem writeTmrLoadKeepsTheCounter : Obligations.WriteTmrLoadKeepsTheCounter := by
  refine fun s d => ⟨txnIs_writeTxn .tmrLoad d, fun zero => ?_, fun legal => ?_⟩
  · rw [exec_wrTmrLoad, writeTmrLoad_of_zeroReload zero, outcomeOf]
  · rw [exec_wrTmrLoad, writeTmrLoad_of_legal legal, outcomeOf]

/-! ### One tick (R94, R101) -/

/-- A timeout latches the trigger and changes nothing else (R100, R101). -/
theorem timeoutTrigger_eq (s : State) :
    timeoutTrigger s = { s with seq := { s.seq with
      pending := s.seq.pending || (s.tmr.trigEn && (s.adc.seqEn && decide (s.adc.trig = 1#2))) } } := by
  by_cases trigEn : s.tmr.trigEn = true
  · by_cases latched : s.adc.seqEn = true ∧ s.adc.trig = 1#2
    · simp [timeoutTrigger, latchTrigger, Config.trigTimer, trigEn, latched]
    · have lost : (s.adc.seqEn && decide (s.adc.trig = 1#2)) = false := by simpa using latched
      simp [timeoutTrigger, latchTrigger, Config.trigTimer, latched, lost]
  · simp [timeoutTrigger, trigEn]

theorem tmrTick_of_ne_zero {s : State} (h : s.tmr.value ≠ 0#32) :
    tmrTick s = { s with tmr := { s.tmr with value := s.tmr.value - 1#32 } } := by
  rw [tmrTick, if_neg h]

theorem tmrTick_of_zero_periodic {s : State} (h : s.tmr.value = 0#32) (hp : s.tmr.periodic = true) :
    tmrTick s = { timeoutTrigger s with tmr := { s.tmr with value := s.tmr.load } } := by
  simp only [tmrTick, if_pos h, hp, if_true, timeoutTrigger_tmr]

theorem tmrTick_of_zero_oneShot {s : State} (h : s.tmr.value = 0#32) (hp : s.tmr.periodic = false) :
    tmrTick s = { timeoutTrigger s with tmr := { s.tmr with en := false } } := by
  simp only [tmrTick, if_pos h, hp, Bool.false_eq_true, if_false, timeoutTrigger_tmr]

theorem perform_tick {s : State} (h : s.tmr.en = true) : perform .tick s = .next (tmrTick s) := by
  simp only [perform, tickEnabled, h, if_true]

/-- Settles O18: an enabled tick is `tmrTick`, which counts, reloads or stops. -/
theorem tickCountsOrTimesOut : Obligations.TickCountsOrTimesOut := by
  refine ⟨fun s => Iff.rfl, fun s en => ⟨fun counting => ?_, fun zero => ⟨fun periodic => ?_, fun oneShot => ?_⟩⟩⟩
  · rw [perform_tick en, tmrTick_of_ne_zero counting]
  · rw [perform_tick en, tmrTick_of_zero_periodic zero periodic, timeoutTrigger_eq]
  · rw [perform_tick en, tmrTick_of_zero_oneShot zero oneShot, timeoutTrigger_eq]

/-! ### Runs of ticks (R95, R98) -/

theorem tmrTicks_add (m n : Nat) (s : State) : tmrTicks (m + n) s = tmrTicks n (tmrTicks m s) := by
  induction n with
  | zero => rfl
  | succ n ih => rw [← Nat.add_assoc, tmrTicks_succ, tmrTicks_succ, ih]

theorem sub_ofNat_eq_zero_iff {v : Word} {k : Nat} (hk : k ≤ v.toNat) : v - BitVec.ofNat 32 k = 0#32 ↔ k = v.toNat := by
  bv_omega

/-- As many ticks as the counter holds, or fewer, only count down, in either mode. -/
theorem tmrTicks_countdown (s : State) (k : Nat) (hk : k ≤ s.tmr.value.toNat) :
    (tmrTicks k s).tmr = { s.tmr with value := s.tmr.value - BitVec.ofNat 32 k } := by
  induction k with
  | zero => simp [tmrTicks]
  | succ k ih =>
    have before := ih (by omega)
    have counting : (tmrTicks k s).tmr.value ≠ 0#32 := by
      rw [before, ne_eq, sub_ofNat_eq_zero_iff (by omega)]
      omega
    rw [tmrTicks_succ, tmrTick_of_ne_zero counting, before]
    simp only [Tmr.mk.injEq, true_and]
    bv_omega

theorem tmrTicks_toZero (s : State) :
    (tmrTicks s.tmr.value.toNat s).tmr = { s.tmr with value := 0#32 } := by
  rw [tmrTicks_countdown s _ le_rfl, (sub_ofNat_eq_zero_iff le_rfl).mpr rfl]

/-- A just loaded periodic timer is just loaded again after LOAD + 1 ticks. -/
theorem tmrTicks_period {s : State} (hp : s.tmr.periodic = true) (hv : s.tmr.value = s.tmr.load) :
    (tmrTicks (s.tmr.load.toNat + 1) s).tmr = s.tmr := by
  have zero := tmrTicks_toZero s
  rw [hv] at zero
  rw [tmrTicks_succ, tmrTick_of_zero_periodic (by rw [zero]) (by rw [zero]; exact hp), zero, ← hv]

theorem tmrTicks_periods {s : State} (hp : s.tmr.periodic = true) (hv : s.tmr.value = s.tmr.load) (q : Nat) :
    (tmrTicks ((s.tmr.load.toNat + 1) * q) s).tmr = s.tmr := by
  induction q with
  | zero => rfl
  | succ q ih =>
    have again := tmrTicks_period (s := tmrTicks ((s.tmr.load.toNat + 1) * q) s) (by rw [ih]; exact hp)
      (by rw [ih]; exact hv)
    rw [ih] at again
    rw [Nat.mul_succ, tmrTicks_add, again]

/-- A just loaded periodic timer after k ticks: in its current period it has counted k mod (LOAD + 1) down. -/
theorem tmrTicks_periodic {s : State} (hp : s.tmr.periodic = true) (hv : s.tmr.value = s.tmr.load) (k : Nat) :
    (tmrTicks k s).tmr =
      { s.tmr with value := s.tmr.load - BitVec.ofNat 32 (k % (s.tmr.load.toNat + 1)) } := by
  have start := tmrTicks_periods hp hv (k / (s.tmr.load.toNat + 1))
  have within : k % (s.tmr.load.toNat + 1) ≤ s.tmr.load.toNat := Nat.le_of_lt_succ (Nat.mod_lt _ (Nat.succ_pos _))
  conv_lhs => rw [← Nat.div_add_mod k (s.tmr.load.toNat + 1), tmrTicks_add]
  rw [tmrTicks_countdown _ _ (by rw [start, hv]; exact within), start, hv]

/-- The last tick of a period is the one whose number the period divides. -/
theorem mod_succ_eq_iff_dvd (k n : Nat) : k % (n + 1) = n ↔ n + 1 ∣ k + 1 := by
  have within : k % (n + 1) < n + 1 := Nat.mod_lt _ (Nat.succ_pos n)
  calc k % (n + 1) = n
      ↔ n + 1 ∣ k % (n + 1) + 1 :=
        ⟨fun h => by rw [h], fun h => by have := Nat.le_of_dvd (Nat.succ_pos _) h; omega⟩
    _ ↔ n + 1 ∣ (n + 1) * (k / (n + 1)) + (k % (n + 1) + 1) := (Nat.dvd_add_right (Nat.dvd_mul_right ..)).symm
    _ ↔ n + 1 ∣ k + 1 := by rw [← Nat.add_assoc, Nat.div_add_mod]

/-- Settles O19, from the timer's place in its period after k ticks. -/
theorem periodicTimeoutsAreLoadPlusOneApart : Obligations.PeriodicTimeoutsAreLoadPlusOneApart := by
  intro s en periodic loaded _ k
  have within : k % (s.tmr.load.toNat + 1) ≤ s.tmr.load.toNat := Nat.le_of_lt_succ (Nat.mod_lt _ (Nat.succ_pos _))
  rw [tmrTicks_periodic periodic loaded]
  exact ⟨en, (sub_ofNat_eq_zero_iff within).trans (mod_succ_eq_iff_dvd ..)⟩

/-- Settles O20: the first LOAD ticks count down to 0, and the next one stops the timer there. -/
theorem oneShotTimesOutOnce : Obligations.OneShotTimesOutOnce := by
  intro s en oneShot loaded
  have stopped : (tmrTicks (s.tmr.load.toNat + 1) s).tmr = { s.tmr with en := false, value := 0#32 } := by
    have zero := tmrTicks_toZero s
    rw [loaded] at zero
    rw [tmrTicks_succ, tmrTick_of_zero_oneShot (by rw [zero]) (by rw [zero]; exact oneShot), zero]
  refine ⟨fun k hk => ?_, by rw [stopped], by rw [tickEnabled, stopped]⟩
  rw [tmrTicks_countdown s k (by rw [loaded]; exact hk), loaded]
  exact ⟨en, sub_ofNat_eq_zero_iff hk⟩

end Sys2Proof.Laws
end

section
/-! PROOFS (spec/41_adc_sequencer.md). The sequencer's registers field by field, what their accesses do, and the start and
the conversion step as one update of the state each. -/

namespace Sys2Proof.Laws

open Sys2Proof.Machine

/-! ### Bytes of a word, and a step's byte (R49, R72) -/

theorem byteOf_le32 (b0 b1 b2 b3 : Byte) (k : Fin 4) : byteOf (le32 b0 b1 b2 b3) k.val = #v[b0, b1, b2, b3][k] := by
  match k with
  | 0 => exact byteOf_le32_zero ..
  | 1 | 2 | 3 =>
    simp (disch := decide) only [byteOf, le32, BitVec.extractLsb'_append_eq_of_le,
      BitVec.extractLsb'_append_eq_of_add_le]
    exact BitVec.extractLsb'_eq_self

theorem le32_byteOf_and (d m : Word) :
    le32 (byteOf d 0 &&& byteOf m 0) (byteOf d 1 &&& byteOf m 1) (byteOf d 2 &&& byteOf m 2) (byteOf d 3 &&& byteOf m 3) =
      d &&& m := by
  simp only [byteOf, ← BitVec.extractLsb'_and]
  exact le32_bytes (d &&& m)

theorem getLsbD_byteOf (w : Word) (k : Nat) {i : Nat} (hi : i < 8) : (byteOf w k).getLsbD i = w.getLsbD (8 * k + i) := by
  rw [byteOf, BitVec.getLsbD_extractLsb', decide_eq_true hi, Bool.true_and]

theorem extractLsb'_byteOf (w : Word) (k : Nat) {i n : Nat} (hi : i + n ≤ 8) :
    (byteOf w k).extractLsb' i n = w.extractLsb' (8 * k + i) n := by
  apply BitVec.eq_of_getLsbD_eq
  intro j hj
  rw [BitVec.getLsbD_extractLsb', BitVec.getLsbD_extractLsb', getLsbD_byteOf w k (by omega), Nat.add_assoc]

theorem stepOfByte_stepByte (c : StepCfg) : stepOfByte (stepByte c) = c := by
  have insel : (stepByte c).extractLsb' 0 4 = c.insel := by
    rw [stepByte, BitVec.extractLsb'_append_eq_right]
  have last : (stepByte c).getLsbD 4 = c.last := by
    simp only [stepByte, BitVec.getLsbD_append]
    simp
  have ie : (stepByte c).getLsbD 5 = c.ie := by
    simp only [stepByte, BitVec.getLsbD_append]
    simp
  rw [stepOfByte, insel, last, ie]

/-- Bits 7:6 of a step's byte are not kept (R72). -/
theorem stepByte_stepOfByte (b : Byte) : stepByte (stepOfByte b) = b &&& 0x3F#8 := by
  decide +revert

theorem extractLsb'_stepByte_reserved (c : StepCfg) : (stepByte c).extractLsb' 6 2 = 0#2 := by
  simp (disch := decide) only [stepByte, BitVec.extractLsb'_append_eq_of_le]
  rfl

/-! ### ADC_CTL (R21, R102, R103) -/

theorem getLsbD_readAdcCtl_flags (s : State) {i : Nat} (hi : i < 4) :
    (readAdcCtl s).getLsbD i = [s.adc.seqEn, s.adc.dmaEn, s.adc.vref, false].getD i false := by
  simp only [readAdcCtl, BitVec.getLsbD_setWidth, BitVec.getLsbD_append]
  match i with
  | 0 | 1 | 2 | 3 => simp

theorem extractLsb'_readAdcCtl_trig (s : State) : (readAdcCtl s).extractLsb' 4 2 = s.adc.trig := by
  simp (disch := decide) only [readAdcCtl, BitVec.extractLsb'_setWidth_of_le, BitVec.extractLsb'_append_eq_of_le,
    BitVec.extractLsb'_append_eq_of_add_le]
  exact BitVec.extractLsb'_eq_self

theorem extractLsb'_readAdcCtl_ovs (s : State) : (readAdcCtl s).extractLsb' 8 3 = s.adc.ovs := by
  simp (disch := decide) only [readAdcCtl, BitVec.extractLsb'_setWidth_of_le, BitVec.extractLsb'_append_eq_of_le]
  exact BitVec.extractLsb'_eq_self

theorem extractLsb'_readAdcCtl_reserved (s : State) :
    (readAdcCtl s).extractLsb' 6 2 = 0#2 ∧ (readAdcCtl s).extractLsb' 11 21 = 0#21 := by
  constructor
  · simp (disch := decide) only [readAdcCtl, BitVec.extractLsb'_setWidth_of_le, BitVec.extractLsb'_append_eq_of_le,
      BitVec.extractLsb'_append_eq_of_add_le]
    rfl
  · apply BitVec.eq_of_getLsbD_eq
    intro i hi
    rw [readAdcCtl, BitVec.getLsbD_extractLsb', BitVec.getLsbD_setWidth, BitVec.getLsbD_of_ge _ (11 + i) (by omega)]
    simp

theorem writeAdcCtl_of_reserved {d : Word} {s : State} (h : d.extractLsb' 4 2 = 3#2 ∨ d.extractLsb' 8 3 = 7#3) :
    writeAdcCtl d s = .error .F02 := by
  have guard : (d.extractLsb' 4 2 == 3#2 || d.extractLsb' 8 3 == 7#3) = true := by simpa using h
  simp only [writeAdcCtl, if_pos guard, raise]

section
variable {d : Word} {s : State} (trig : d.extractLsb' 4 2 ≠ 3#2) (ovs : d.extractLsb' 8 3 ≠ 7#3)
include trig ovs

theorem writeAdcCtl_of_staysEnabled (h : s.seq.busy = true ∧ d.getLsbD 0 = true) : writeAdcCtl d s = .error .F03 := by
  obtain ⟨busy, en⟩ := h
  simp [writeAdcCtl, raise, trig, ovs, busy, en]

theorem writeAdcCtl_of_legal (h : ¬ (s.seq.busy = true ∧ d.getLsbD 0 = true)) :
    writeAdcCtl d s = .ok { s with
      seq := { busy := false, step := if s.seq.busy = true then 0 else s.seq.step, pending := false,
               fifo := s.seq.fifo }
      adc := { s.adc with seqEn := d.getLsbD 0, dmaEn := d.getLsbD 1, vref := d.getLsbD 2,
                          trig := d.extractLsb' 4 2, ovs := d.extractLsb' 8 3 } } := by
  have codes : ¬ (d.extractLsb' 4 2 == 3#2 || d.extractLsb' 8 3 == 7#3) = true := by simp [trig, ovs]
  have guard : ¬ (s.seq.busy && d.getLsbD 0) = true := by simpa using h
  simp only [writeAdcCtl, if_neg codes, if_neg guard]
  cases busy : s.seq.busy <;> simp [busy]

end

/-- Settles O22: reserved codes first, then a running sequence that stays enabled, then the effect. -/
theorem writeAdcCtlConfiguresOrAborts : Obligations.WriteAdcCtlConfiguresOrAborts := by
  refine fun s d => ⟨txnIs_writeTxn .adcCtl d, fun reserved => ?_, fun trig ovs busy en => ?_, fun trig ovs legal => ?_⟩
  · exact (exec_writeInstr .adcCtl d s).trans (congrArg outcomeOf (writeAdcCtl_of_reserved reserved))
  · exact (exec_writeInstr .adcCtl d s).trans (congrArg outcomeOf (writeAdcCtl_of_staysEnabled trig ovs ⟨busy, en⟩))
  · exact (exec_writeInstr .adcCtl d s).trans (congrArg outcomeOf (writeAdcCtl_of_legal trig ovs legal))

/-! ### ADC_STEPCFG (R22, R104, R105) -/

theorem byteOf_readAdcStepcfg (s : State) (k : StepIx) : byteOf (readAdcStepcfg s) k.val = stepByte s.adc.steps[k] := by
  rw [readAdcStepcfg, byteOf_le32]
  match k with
  | 0 | 1 | 2 | 3 => rfl

/-- The steps' configurations a write of ADC_STEPCFG stores (R105). -/
def stepsOfWord (d : Word) : Vector StepCfg 4 :=
  #v[stepOfByte (byteOf d 0), stepOfByte (byteOf d 1), stepOfByte (byteOf d 2), stepOfByte (byteOf d 3)]

theorem getElem_stepsOfWord (d : Word) (k : StepIx) : (stepsOfWord d)[k] = stepOfByte (byteOf d k.val) := by
  match k with
  | 0 | 1 | 2 | 3 => rfl

/-- A step's fields lie at the bits of its byte (R22). -/
theorem stepOfByte_byteOf (d : Word) (k : Nat) :
    stepOfByte (byteOf d k) =
      { insel := d.extractLsb' (8 * k) 4, last := d.getLsbD (8 * k + 4), ie := d.getLsbD (8 * k + 5) } := by
  rw [stepOfByte, extractLsb'_byteOf d k (by decide), getLsbD_byteOf d k (by decide), getLsbD_byteOf d k (by decide),
    Nat.add_zero]

theorem readAdcStepcfg_of_stepsOfWord {d : Word} {s : State} (h : s.adc.steps = stepsOfWord d) :
    readAdcStepcfg s = d &&& 0x3F3F3F3F#32 := by
  calc readAdcStepcfg s
      = le32 (stepByte (stepOfByte (byteOf d 0))) (stepByte (stepOfByte (byteOf d 1)))
          (stepByte (stepOfByte (byteOf d 2))) (stepByte (stepOfByte (byteOf d 3))) := by rw [readAdcStepcfg, h]; rfl
    _ = d &&& 0x3F3F3F3F#32 := by
      simp only [stepByte_stepOfByte]
      exact le32_byteOf_and d 0x3F3F3F3F#32

theorem writeAdcStepcfg_of_busy (d : Word) {s : State} (h : s.seq.busy = true) : writeAdcStepcfg d s = .error .F03 := by
  rw [writeAdcStepcfg, if_pos h, raise]

theorem writeAdcStepcfg_of_idle (d : Word) {s : State} (h : s.seq.busy = false) :
    writeAdcStepcfg d s = .ok { s with adc := { s.adc with steps := stepsOfWord d } } := by
  rw [writeAdcStepcfg, if_neg (by simp [h]), stepsOfWord]

/-- Settles O23: the stored steps are the data's bytes, and their own bytes are those without bits 7:6. -/
theorem writeStepcfgStoresEveryStep : Obligations.WriteStepcfgStoresEveryStep := by
  refine fun s d => ⟨txnIs_writeTxn .adcStepcfg d, fun busy => ?_, fun idle => ⟨stepsOfWord d, ?_, fun k => ?_, ?_⟩⟩
  · exact (exec_writeInstr .adcStepcfg d s).trans (congrArg outcomeOf (writeAdcStepcfg_of_busy d busy))
  · exact (exec_writeInstr .adcStepcfg d s).trans (congrArg outcomeOf (writeAdcStepcfg_of_idle d idle))
  · rw [getElem_stepsOfWord, stepOfByte_byteOf]
    exact ⟨rfl, rfl, rfl⟩
  · have value := readAdcStepcfg_of_stepsOfWord (s := { s with adc := { s.adc with steps := stepsOfWord d } }) rfl
    rw [← value]
    exact exec_readInstr .adcStepcfg _

/-- Settles O21: ADC_CTL field by field, and ADC_STEPCFG byte by byte. -/
theorem configurationReadsReturnTheFields : Obligations.ConfigurationReadsReturnTheFields := by
  refine ⟨txnIs_readTxn .adcCtl, txnIs_readTxn .adcStepcfg, fun s => ⟨⟨readAdcCtl s, exec_readInstr .adcCtl s, ?_⟩,
    readAdcStepcfg s, exec_readInstr .adcStepcfg s, fun k => ?_⟩⟩
  · obtain ⟨reserved7_6, reserved31_11⟩ := extractLsb'_readAdcCtl_reserved s
    have flags := fun i (hi : i < 4) => getLsbD_readAdcCtl_flags s hi
    exact ⟨flags 0 (by decide), flags 1 (by decide), flags 2 (by decide), flags 3 (by decide),
      extractLsb'_readAdcCtl_trig s, reserved7_6, extractLsb'_readAdcCtl_ovs s, reserved31_11⟩
  · have fields := stepOfByte_byteOf (readAdcStepcfg s) k.val
    rw [byteOf_readAdcStepcfg, stepOfByte_stepByte] at fields
    rw [fields, ← extractLsb'_byteOf _ k.val (by decide), byteOf_readAdcStepcfg]
    exact ⟨rfl, rfl, rfl, extractLsb'_stepByte_reserved _⟩

/-! ### ADC_PSSI (R100, R107) -/

theorem latchTrigger_eq (src : BitVec 2) (s : State) :
    latchTrigger src s = { s with seq := { s.seq with
      pending := s.seq.pending || (s.adc.seqEn && decide (s.adc.trig = src)) } } := by
  by_cases latched : s.adc.seqEn = true ∧ s.adc.trig = src
  · simp [latchTrigger, latched]
  · have lost : (s.adc.seqEn && decide (s.adc.trig = src)) = false := by simpa using latched
    simp [latchTrigger, latched, lost]

theorem writeAdcPssi_eq (d : Word) (s : State) :
    writeAdcPssi d s = .ok { s with seq := { s.seq with
      pending := s.seq.pending || (d.getLsbD 0 && (s.adc.seqEn && decide (s.adc.trig = 0#2))) } } := by
  rw [writeAdcPssi, latchTrigger_eq, Config.trigProcessor]
  cases d.getLsbD 0 <;> simp

/-- Settles O24: the write latches through `latchTrigger` when bit 0 is 1. -/
theorem processorTriggerIsLatched : Obligations.ProcessorTriggerIsLatched := fun s d =>
  ⟨txnIs_writeTxn .adcPssi d, (exec_writeInstr .adcPssi d s).trans (congrArg outcomeOf (writeAdcPssi_eq d s))⟩

/-! ### ADC_RIS, ADC_IM and ADC_ISC (R108 to R113) -/

theorem getLsbD_setWidth_flags (x : BitVec 3) (i : Nat) : (x.setWidth 32).getLsbD i = x.getLsbD i := by
  rw [BitVec.getLsbD_setWidth]
  by_cases hi : i < 32
  · simp [hi]
  · simp [hi, BitVec.getLsbD_of_ge x i (by omega)]

/-- Settles O25: the three values are the flags, the mask and their conjunction, extended with zeros. -/
theorem statusReadsReturnTheFlags : Obligations.StatusReadsReturnTheFlags := by
  refine ⟨txnIs_readTxn .adcRis, txnIs_readTxn .adcIm, txnIs_readTxn .adcIsc, fun s => ⟨readAdcRis s, readAdcIm s,
    readAdcIsc s, exec_readInstr .adcRis s, exec_readInstr .adcIm s, exec_readInstr .adcIsc s, fun i => ⟨?_, ?_, ?_⟩⟩⟩
  · exact getLsbD_setWidth_flags ..
  · exact getLsbD_setWidth_flags ..
  · rw [readAdcIsc, getLsbD_setWidth_flags, maskedRis, BitVec.getLsbD_and]

theorem getLsbD_and_not_setWidth (r : BitVec 3) (d : Word) (i : Nat) :
    (r &&& ~~~ d.setWidth 3).getLsbD i = (r.getLsbD i && !d.getLsbD i) := by
  by_cases hi : i < 3
  · simp [hi]
  · simp [BitVec.getLsbD_of_ge _ i (Nat.le_of_not_lt hi)]

/-- Settles O26: ADC_IM takes the data's low bits, and ADC_ISC masks the flags with their complement. -/
theorem maskAndClearWrites : Obligations.MaskAndClearWrites := by
  refine fun s d => ⟨txnIs_writeTxn .adcIm d, txnIs_writeTxn .adcIsc d, ?_, s.adc.ris &&& ~~~ d.setWidth 3,
    exec_writeInstr .adcIsc d s, getLsbD_and_not_setWidth s.adc.ris d⟩
  rw [← BitVec.setWidth_eq_extractLsb' (by decide)]
  exact exec_writeInstr .adcIm d s

/-! ### ADC_FIFO (R114) -/

theorem readAdcFifo_of_cons {s : State} {v : Sample} {rest : List Sample} (h : s.seq.fifo = v :: rest) :
    readAdcFifo s = (v.setWidth 32, { s with seq := { s.seq with fifo := rest } }) := by
  simp only [readAdcFifo, h]

theorem readAdcFifo_of_nil {s : State} (h : s.seq.fifo = []) :
    readAdcFifo s = ((drawWord (setRis bitUV s)).1,
      { s with adc := { s.adc with ris := s.adc.ris ||| 4#3 }, env := (drawWord (setRis bitUV s)).2.env }) := by
  simp only [readAdcFifo, h]
  exact Prod.ext rfl (drawWord_spec (setRis bitUV s))

/-- The engine's word read at ADC_FIFO's address follows the host's rule (R56). -/
theorem sgeRead_adcFifo (s : State) :
    sgeRead s (s.blockPage ++ 0x118#12) .word = (some (readAdcFifo s).1, (readAdcFifo s).2) := by
  have read := sgeRead_windowAddr s (regOffset .adcFifo)
  rw [regAt_regOffset] at read
  exact read

theorem exec_rdAdcFifo (s : State) : exec .rdAdcFifo s = hostReads (readAdcFifo s) :=
  exec_readInstr .adcFifo s

/-- Settles O27: both accesses are `readAdcFifo`, which pops or underflows. -/
theorem fifoReadPopsOrUnderflows : Obligations.FifoReadPopsOrUnderflows := by
  refine ⟨txnIs_readTxn .adcFifo, fun s => ⟨fun v rest holds => ?_, fun empty => ?_⟩⟩
  · rw [exec_rdAdcFifo, sgeRead_adcFifo, readAdcFifo_of_cons holds]
    exact ⟨rfl, rfl⟩
  · refine ⟨(drawWord (setRis bitUV s)).1, (drawWord (setRis bitUV s)).2.env, ?_⟩
    rw [exec_rdAdcFifo, sgeRead_adcFifo, readAdcFifo_of_nil empty]
    exact ⟨rfl, rfl⟩

/-! ### ADC_FSTAT (R116) -/

theorem getLsbD_flagAt (p : Prop) [Decidable p] {k : Nat} (hk : k < 32) (i : Nat) :
    (if p then 1#32 <<< k else 0#32).getLsbD i = (decide (i = k) && decide p) := by
  have bit : (1#32 <<< k).getLsbD i = decide (i = k) := by
    rw [← BitVec.twoPow_eq, BitVec.getLsbD_twoPow, decide_eq_true hk, Bool.true_and]
    exact decide_eq_decide.mpr eq_comm
  split <;> simp [*]

theorem shiftLeft_ofBool (b : Bool) (k : Nat) :
    (BitVec.ofBool b).setWidth 32 <<< k = if b = true then 1#32 <<< k else 0#32 := by
  cases b <;> simp

theorem getLsbD_readAdcFstat (s : State) (i : Nat) :
    (readAdcFstat s).getLsbD i =
      ((BitVec.ofNat 32 s.seq.fifo.length).getLsbD i || (decide (i = 8) && decide (s.seq.fifo = [])) ||
        (decide (i = 12) && decide (s.seq.fifo.length = 4)) || (decide (i = 16) && s.seq.busy) ||
        (decide (i = 17) && s.seq.pending)) := by
  simp only [readAdcFstat, shiftLeft_ofBool, BitVec.getLsbD_or]
  rw [getLsbD_flagAt _ (by decide), getLsbD_flagAt _ (by decide), getLsbD_flagAt _ (by decide),
    getLsbD_flagAt _ (by decide)]
  simp only [List.length_eq_zero_iff, Bool.decide_eq_true]
  rfl

theorem getLsbD_ofNat_count {n : Nat} (hn : n ≤ 4) {i : Nat} (hi : 3 ≤ i) : (BitVec.ofNat 32 n).getLsbD i = false := by
  have small : n < 2 ^ i :=
    calc n < 2 ^ 3 := by omega
      _ ≤ 2 ^ i := Nat.pow_le_pow_right (by decide) hi
  rw [BitVec.getLsbD_ofNat, Nat.testBit_lt_two_pow small, Bool.and_false]

theorem extractLsb'_readAdcFstat_count (s : State) :
    (readAdcFstat s).extractLsb' 0 3 = BitVec.ofNat 3 s.seq.fifo.length := by
  apply BitVec.eq_of_getLsbD_eq
  intro i hi
  have noFlag : i ≠ 8 ∧ i ≠ 12 ∧ i ≠ 16 ∧ i ≠ 17 := by omega
  have inWord : i < 32 := by omega
  rw [BitVec.getLsbD_extractLsb', Nat.zero_add, getLsbD_readAdcFstat, BitVec.getLsbD_ofNat, BitVec.getLsbD_ofNat]
  simp [hi, noFlag, inWord]

/-- Settles O28: the count fills bits 2:0 and reaches no higher bit, and each flag stands at its own bit. -/
theorem fifoStatusReadsTheFields : Obligations.FifoStatusReadsTheFields := by
  refine ⟨txnIs_readTxn .adcFstat, fun s ok => ⟨readAdcFstat s, exec_readInstr .adcFstat s, ?_⟩⟩
  have high : ∀ i, 3 ≤ i → (BitVec.ofNat 32 s.seq.fifo.length).getLsbD i = false := fun i => getLsbD_ofNat_count ok
  refine ⟨?_, ?_, ?_, ?_, ?_, fun i hi h8 h12 h16 h17 => ?_⟩
  · rw [extractLsb'_readAdcFstat_count, BitVec.toNat_ofNat]
    exact Nat.mod_eq_of_lt (Nat.lt_of_le_of_lt ok (by decide))
  · rw [getLsbD_readAdcFstat, high 8 (by decide)]
    simp
  · rw [getLsbD_readAdcFstat, high 12 (by decide)]
    simp
  · rw [getLsbD_readAdcFstat, high 16 (by decide)]
    simp
  · rw [getLsbD_readAdcFstat, high 17 (by decide)]
    simp
  · simp [getLsbD_readAdcFstat, high i hi, h8, h12, h16, h17]

/-! ### ADC_PSSI and the engine's write-only registers (R106, R134, R138, R140) -/

/-- Settles O30: each value is 0 by its register's own rule. -/
theorem writeOnlyRegistersReadZero : Obligations.WriteOnlyRegistersReadZero :=
  ⟨txnIs_readTxn .adcPssi, txnIs_readTxn .sgEnaclr, txnIs_readTxn .sgAltclr, txnIs_readTxn .sgSwreq, fun s =>
    ⟨exec_readInstr .adcPssi s, exec_readInstr .sgEnaclr s, exec_readInstr .sgAltclr s, exec_readInstr .sgSwreq s⟩⟩

/-! ### SEQ.START (R118) -/

theorem startEnabled_iff (s : State) :
    startEnabled s = true ↔
      s.adc.seqEn = true ∧ s.seq.busy = false ∧ (s.seq.pending = true ∨ s.adc.trig = 2#2) := by
  simp [startEnabled, Config.trigAlways, and_assoc]

theorem hasEndFrom_zero_iff (a : Adc) : hasEndFrom a 0 = true ↔ ∃ k : StepIx, (a.steps[k]).last = true := by
  simp [hasEndFrom, Fin.exists_fin_succ, or_assoc]

theorem seqStart_of_noEnd {s : State} (h : ∀ k : StepIx, (s.adc.steps[k]).last = false) : seqStart s = .error .F04 := by
  have noEnd : hasEndFrom s.adc 0 = false := by
    rw [Bool.eq_false_iff, ne_eq, hasEndFrom_zero_iff]
    simpa using h
  simp [seqStart, noEnd, raise]

theorem seqStart_of_end {s : State} (h : ∃ k : StepIx, (s.adc.steps[k]).last = true) :
    seqStart s = .ok { s with seq := { busy := true, step := 0, pending := false, fifo := s.seq.fifo } } := by
  simp [seqStart, (hasEndFrom_zero_iff s.adc).mpr h]

theorem perform_seqStart {s : State} (h : startEnabled s = true) : perform .seqStart s = outcomeOf (seqStart s) := by
  rw [perform, if_pos h]

/-- Settles O31: an enabled start is `seqStart`, which asks for an END step. -/
theorem sequenceStart : Obligations.SequenceStart := by
  refine fun s => ⟨startEnabled_iff s, fun enabled noEnd => ?_, fun enabled hasEnd => ?_⟩
  · rw [perform_seqStart ((startEnabled_iff s).mpr enabled), seqStart_of_noEnd noEnd, outcomeOf]
  · rw [perform_seqStart ((startEnabled_iff s).mpr enabled), seqStart_of_end hasEnd, outcomeOf]

/-! ### SEQ.CONV (R120, R121) -/

theorem pushResult_eq (v : Sample) (s : State) :
    pushResult v s = { s with
      seq := { s.seq with fifo := if decide (s.seq.fifo.length < 4) then s.seq.fifo ++ [v] else s.seq.fifo }
      adc := { s.adc with ris := s.adc.ris ||| (if decide (s.seq.fifo.length < 4) then 0#3 else 2#3) } } := by
  by_cases room : s.seq.fifo.length < 4
  · simp [pushResult, Config.fifoDepth, room]
  · simp [pushResult, Config.fifoDepth, room, setRis, bitOV]

theorem chanBit_zero_and (v : Word) : chanBit 0 &&& v = if hasChan v 0 then 1#32 else 0#32 := by
  apply BitVec.eq_of_getLsbD_eq
  intro i hi
  rw [BitVec.getLsbD_and, show chanBit 0 = 1#32 from rfl, BitVec.getLsbD_one]
  rcases Nat.eq_zero_or_pos i with rfl | pos
  · show (true && hasChan v 0) = _
    cases hasChan v 0 <;> rfl
  · cases hasChan v 0 <;> simp [pos.ne']

/-- SG.Request on the sequencer's channel (R121, R150). -/
theorem requestChans_adcDmaCh (s : State) :
    requestChans (chanBit Config.adcDmaCh) s = { s with sge := { s.sge with
      req := if s.sge.masterEn && hasChan s.sge.enable 0 then s.sge.req ||| 1#32 else s.sge.req } } := by
  rw [requestChans, Config.adcDmaCh, chanBit_zero_and]
  cases s.sge.masterEn <;> cases hasChan s.sge.enable 0 <;> simp

/-- What a step's IE asks for, whether it is set or not. -/
theorem stepCompletes_if_eq (ie : Bool) (s : State) :
    (if ie then stepCompletes s else s) = { s with
      adc := { s.adc with ris := s.adc.ris ||| (if ie then 1#3 else 0#3) }
      sge := { s.sge with
        req := if ie && s.adc.dmaEn && s.sge.masterEn && hasChan s.sge.enable 0 then s.sge.req ||| 1#32
               else s.sge.req } } := by
  cases ie with
  | false => simp
  | true =>
    rw [stepCompletes, requestChans_adcDmaCh]
    cases dma : s.adc.dmaEn <;> simp [dma, setRis, bitINR]

theorem nextStep_eq (cfg : StepCfg) {s : State} (h : s.seq.busy = true) :
    nextStep cfg s = { s with seq := { s.seq with
      busy := !cfg.last, step := if cfg.last then 0 else s.seq.step + 1 } } := by
  cases last : cfg.last <;> simp [nextStep, last, h]

/-- Settles O33: the draws, the push, IE's effects and the next step, composed. -/
theorem conversionStep : Obligations.ConversionStep := by
  refine ⟨fun s => Iff.rfl, fun s busy => ?_⟩
  intro cfg n drawn room
  have enabled : perform .seqConv s = .next (seqConv s) := by rw [perform, convEnabled, if_pos busy]
  have composed : seqConv s = nextStep cfg (if cfg.ie then stepCompletes (pushResult (average drawn.1 n) drawn.2)
      else pushResult (average drawn.1 n) drawn.2) := rfl
  have frame : drawn.2 = { s with env := drawn.2.env } := drawSum_spec cfg.insel n s
  rw [enabled, composed, frame, stepCompletes_if_eq, pushResult_eq, nextStep_eq, average]
  exact busy

end Sys2Proof.Laws
end

section
/-! PROOFS (spec/42_sg_engine.md, sections 1 to 3). The engine's registers: channel vectors after a write, which channels
are served, and the fault and the effect of each register's write. -/

namespace Sys2Proof.Laws

open Sys2Proof.Machine Sys2Proof.Claims

/-! ### Channel vectors after a write -/

theorem hasChan_or (v d : Word) (c : Chan) : hasChan (v ||| d) c = (hasChan v c || hasChan d c) :=
  BitVec.getLsbD_or

theorem hasChan_and (v d : Word) (c : Chan) : hasChan (v &&& d) c = (hasChan v c && hasChan d c) :=
  BitVec.getLsbD_and

theorem hasChan_and_not (v d : Word) (c : Chan) : hasChan (v &&& ~~~ d) c = (hasChan v c && !hasChan d c) := by
  rw [hasChan_and, hasChan, hasChan, hasChan, BitVec.getLsbD_not, decide_eq_true c.isLt, Bool.true_and]

theorem eq_zero_iff_chans (v : Word) : v = 0#32 ↔ ∀ c : Chan, hasChan v c = false :=
  ⟨fun h c => by rw [h, hasChan, BitVec.getLsbD_zero], eq_zero_of_chans⟩

theorem getLsbD_tableBase (d : Word) (i : Nat) : (d &&& 0xFFFFFC00#32).getLsbD i = (d.getLsbD i && decide (10 ≤ i)) := by
  have mask : 0xFFFFFC00#32 = BitVec.allOnes 32 <<< 10 := by decide
  rw [mask, BitVec.getLsbD_and, BitVec.getLsbD_shiftLeft, BitVec.getLsbD_allOnes]
  by_cases hi : i < 32
  · have low : i - 10 < 32 := by omega
    have bit : (!decide (i < 10)) = decide (10 ≤ i) := by
      rw [← decide_not]
      exact decide_eq_decide.mpr Nat.not_lt
    rw [decide_eq_true hi, decide_eq_true low, bit, Bool.true_and, Bool.and_true]
  · rw [BitVec.getLsbD_of_ge d i (Nat.le_of_not_lt hi), Bool.false_and, Bool.false_and]

/-! ### Served channels -/

theorem isActive_eq_decide (r : RunState) : r.isActive = decide (r ≠ .idle) := by
  rw [Bool.eq_iff_iff, isActive_iff, decide_eq_true_iff]

theorem activeVector_eq_zero_iff_idle (g : Sge) : activeVector g = 0#32 ↔ ∀ c : Chan, g.rs[c] = .idle := by
  simp [activeVector_eq_zero, isActive_eq_decide]

theorem namesActive_eq_false_iff (chans : Word) (s : State) :
    namesActive chans s = false ↔ ∀ c : Chan, hasChan chans c = true → s.sge.rs[c] = .idle := by
  rw [Bool.eq_false_iff, ne_eq, namesActive_iff]
  push Not
  rfl

/-! ### The outcome of a register write -/

theorem exec_writeInstr_of_ok {r : Reg} {d : Word} {s t : State} (h : regWrite r d s = .ok t) :
    exec (writeInstr r d) s = .next t := by
  rw [exec_writeInstr, h, outcomeOf]

theorem exec_writeInstr_of_error {r : Reg} {d : Word} {s : State} {e : Fault} (h : regWrite r d s = .error e) :
    exec (writeInstr r d) s = .fault e := by
  rw [exec_writeInstr, h, outcomeOf]

/-! ### Reads (R128, R130, R132, R136, R142, R144, R146, R148) -/

theorem setWidth_ofBool (b : Bool) : (BitVec.ofBool b).setWidth 32 = if b then 1#32 else 0#32 := by
  cases b <;> rfl

theorem ctlBase_low_of_tableOk {s : State} (h : tableOk s) {i : Nat} (hi : i < 10) : s.sge.ctlBase.getLsbD i = false := by
  have bit := congrArg (·.getLsbD i) h
  simpa [BitVec.getLsbD_extractLsb', hi] using bit

/-- Settles O35: each value is its register's, and the flags' words are 1 or 0. -/
theorem engineReadsReturnTheRegisters : Obligations.EngineReadsReturnTheRegisters := by
  refine ⟨txnIs_readTxn .sgCfg, txnIs_readTxn .sgCtlbase, txnIs_readTxn .sgEnaset, txnIs_readTxn .sgAltset,
    txnIs_readTxn .sgErrclr, txnIs_readTxn .sgDone, txnIs_readTxn .sgDoneim, fun s => ⟨?_, exec_readInstr .sgCtlbase s,
      fun aligned i => ctlBase_low_of_tableOk aligned, exec_readInstr .sgEnaset s, exec_readInstr .sgAltset s, ?_,
      exec_readInstr .sgDone s, exec_readInstr .sgDoneim s⟩⟩
  · rw [← setWidth_ofBool]
    exact exec_readInstr .sgCfg s
  · rw [← setWidth_ofBool]
    exact exec_readInstr .sgErrclr s

/-- Settles O36: the value is `activeVector`, whose bits are the run states. -/
theorem activeReadShowsTheServedChannel : Obligations.ActiveReadShowsTheServedChannel := by
  refine ⟨txnIs_readTxn .sgActive, fun s => ⟨activeVector s.sge, exec_readInstr .sgActive s, fun c => ?_,
    fun one c d => ?_⟩⟩
  · rw [hasChan_activeVector, isActive_eq_decide]
  · rw [hasChan_activeVector, hasChan_activeVector]
    exact one c d

/-! ### SG_CFG and SG_CTLBASE (R129, R131) -/

theorem writeSgCfg_of_served {d : Word} {s : State} (off : d.getLsbD 0 = false)
    (served : ∃ c : Chan, s.sge.rs[c] ≠ .idle) : writeSgCfg d s = .error .F08 := by
  have running : activeVector s.sge ≠ 0#32 := by
    rw [ne_eq, activeVector_eq_zero_iff_idle]
    exact not_forall.mpr served
  have guard : (!d.getLsbD 0 && activeVector s.sge != 0#32) = true := by
    rw [off, bne_iff_ne.mpr running]
    rfl
  rw [writeSgCfg, if_pos guard, raise]

theorem writeSgCfg_of_legal {d : Word} {s : State} (h : d.getLsbD 0 = true ∨ ∀ c : Chan, s.sge.rs[c] = .idle) :
    writeSgCfg d s = .ok { s with sge := { s.sge with masterEn := d.getLsbD 0 } } := by
  have guard : ¬ (!d.getLsbD 0 && activeVector s.sge != 0#32) = true := by
    rw [← activeVector_eq_zero_iff_idle] at h
    rcases h with on | idle
    · simp [on]
    · simp [idle]
  rw [writeSgCfg, if_neg guard]

/-- Settles O37: the fault and the effect of the write, one lemma for each side of its guard. -/
theorem writeSgCfgGuardsTheRun : Obligations.WriteSgCfgGuardsTheRun := fun _ d =>
  ⟨txnIs_writeTxn .sgCfg d, fun off served => exec_writeInstr_of_error (r := .sgCfg) (writeSgCfg_of_served off served),
    fun legal => exec_writeInstr_of_ok (r := .sgCfg) (writeSgCfg_of_legal legal)⟩

theorem writeSgCtlbase_of_enabled (d : Word) {s : State} (h : ∃ c : Chan, hasChan s.sge.enable c = true) :
    writeSgCtlbase d s = .error .F08 := by
  have enabled : s.sge.enable ≠ 0#32 := by
    rw [ne_eq, eq_zero_iff_chans]
    simpa using h
  simp [writeSgCtlbase, raise, enabled]

theorem writeSgCtlbase_of_disabled (d : Word) {s : State} (h : ∀ c : Chan, hasChan s.sge.enable c = false) :
    writeSgCtlbase d s = .ok { s with sge := { s.sge with ctlBase := d &&& 0xFFFFFC00#32 } } := by
  simp [writeSgCtlbase, eq_zero_of_chans h]

/-- Settles O38: the fault and the effect of the write, and the mask bit by bit. -/
theorem writeSgCtlbaseAlignsTheTable : Obligations.WriteSgCtlbaseAlignsTheTable := fun _ d =>
  ⟨txnIs_writeTxn .sgCtlbase d,
    fun enabled => exec_writeInstr_of_error (r := .sgCtlbase) (writeSgCtlbase_of_enabled d enabled),
    fun disabled => ⟨_, exec_writeInstr_of_ok (r := .sgCtlbase) (writeSgCtlbase_of_disabled d disabled),
      getLsbD_tableBase d⟩⟩

/-! ### SG_ENASET, SG_ENACLR, SG_ALTSET and SG_ALTCLR (R133, R135, R137, R139) -/

section
variable {d : Word} {s : State}

theorem writeSgEnaclr_of_served (h : namesActive d s = true) : writeSgEnaclr d s = .error .F08 := by
  rw [writeSgEnaclr, if_pos h, raise]

theorem writeSgEnaclr_of_idle (h : namesActive d s = false) :
    writeSgEnaclr d s = .ok { s with sge := { s.sge with
      enable := s.sge.enable &&& ~~~ d, req := s.sge.req &&& ~~~ d } } := by
  rw [writeSgEnaclr, if_neg (Bool.eq_false_iff.mp h)]

theorem writeSgAltset_of_served (h : namesActive d s = true) : writeSgAltset d s = .error .F08 := by
  rw [writeSgAltset, if_pos h, raise]

theorem writeSgAltset_of_idle (h : namesActive d s = false) :
    writeSgAltset d s = .ok { s with sge := { s.sge with altSel := s.sge.altSel ||| d } } := by
  rw [writeSgAltset, if_neg (Bool.eq_false_iff.mp h)]

theorem writeSgAltclr_of_served (h : namesActive d s = true) : writeSgAltclr d s = .error .F08 := by
  rw [writeSgAltclr, if_pos h, raise]

theorem writeSgAltclr_of_idle (h : namesActive d s = false) :
    writeSgAltclr d s = .ok { s with sge := { s.sge with altSel := s.sge.altSel &&& ~~~ d } } := by
  rw [writeSgAltclr, if_neg (Bool.eq_false_iff.mp h)]

end

/-- Settles O39: SG_ENACLR's guard is `namesActive`, and the masks are read channel by channel. -/
theorem enableWritesSetAndClearChannels : Obligations.EnableWritesSetAndClearChannels := by
  refine fun s d => ⟨txnIs_writeTxn .sgEnaset d, txnIs_writeTxn .sgEnaclr d,
    ⟨s.sge.enable ||| d, exec_writeInstr .sgEnaset d s, hasChan_or _ d⟩, fun served => ?_, fun idle => ?_⟩
  · rw [← namesActive_iff] at served
    exact exec_writeInstr_of_error (r := .sgEnaclr) (writeSgEnaclr_of_served served)
  · rw [← namesActive_eq_false_iff] at idle
    exact ⟨_, _, exec_writeInstr_of_ok (r := .sgEnaclr) (writeSgEnaclr_of_idle idle),
      fun c => ⟨hasChan_and_not _ d c, hasChan_and_not _ d c⟩⟩

/-- Settles O40: the guard of both writes is `namesActive`, and the masks are read channel by channel. -/
theorem alternateWritesSetAndClearChannels : Obligations.AlternateWritesSetAndClearChannels := by
  refine fun s d => ⟨txnIs_writeTxn .sgAltset d, txnIs_writeTxn .sgAltclr d, fun served => ?_, fun idle => ?_⟩
  · rw [← namesActive_iff] at served
    exact ⟨exec_writeInstr_of_error (r := .sgAltset) (writeSgAltset_of_served served),
      exec_writeInstr_of_error (r := .sgAltclr) (writeSgAltclr_of_served served)⟩
  · rw [← namesActive_eq_false_iff] at idle
    exact ⟨_, _, exec_writeInstr_of_ok (r := .sgAltset) (writeSgAltset_of_idle idle),
      exec_writeInstr_of_ok (r := .sgAltclr) (writeSgAltclr_of_idle idle),
      fun c => ⟨hasChan_or _ d c, hasChan_and_not _ d c⟩⟩

/-! ### SG_SWREQ (R141, R150) -/

theorem requestChans_eq (chans : Word) (s : State) :
    requestChans chans s = { s with sge := { s.sge with
      req := if s.sge.masterEn then s.sge.req ||| (chans &&& s.sge.enable) else s.sge.req } } := by
  rw [requestChans]
  split <;> rfl

/-- Settles O41: a request is latched by `requestChans`, where the controller is enabled and where it is not. -/
theorem softwareRequestsAreLatched : Obligations.SoftwareRequestsAreLatched := by
  refine fun s d => ⟨txnIs_writeTxn .sgSwreq d, _,
    exec_writeInstr_of_ok (r := .sgSwreq) (congrArg Except.ok (requestChans_eq d s)), fun c => ?_⟩
  cases s.sge.masterEn with
  | false => simp
  | true => simp [hasChan_or, hasChan_and]

/-! ### SG_ERRCLR, SG_DONE and SG_DONEIM (R143, R145, R147) -/

theorem writeSgErrclr_eq (d : Word) (s : State) :
    writeSgErrclr d s = .ok { s with sge := { s.sge with err := s.sge.err && !d.getLsbD 0 } } := by
  rw [writeSgErrclr]
  cases d.getLsbD 0 <;> simp

/-- Settles O42: the error flag, the mask of DONE channel by channel, and the stored mask. -/
theorem statusClearAndMaskWrites : Obligations.StatusClearAndMaskWrites := fun s d =>
  ⟨txnIs_writeTxn .sgErrclr d, txnIs_writeTxn .sgDone d, txnIs_writeTxn .sgDoneim d,
    exec_writeInstr_of_ok (r := .sgErrclr) (writeSgErrclr_eq d s),
    ⟨s.sge.done &&& ~~~ d, exec_writeInstr .sgDone d s, hasChan_and_not _ d⟩, exec_writeInstr .sgDoneim d s⟩

end Sys2Proof.Laws
end

section
/-! PROOFS (spec/42_sg_engine.md R75, R153, R156, R159, R162; the reserved modes). The check of a control word, the steps
that a STOP, a reserved or a misaligned word takes, and the operands and the write-back of a word. -/

namespace Sys2Proof.Laws

open Sys2Proof.Machine Sys2Proof.Claims

/-! ### CheckCtl (R76, R77, R153) -/

theorem modeLegal_iff (m : XferMode) (isAlt chain : Bool) : modeLegal m isAlt chain = true ↔ ModeFits m isAlt chain := by
  cases m <;> simp [modeLegal, ModeFits]

theorem incFits_iff (inc size : BitVec 2) : incFits inc size = true ↔ inc = 3#2 ∨ size.toNat ≤ inc.toNat := by
  simp [incFits, BitVec.ule]

theorem fieldsLegal_iff (m : XferMode) (f : CtlFields) : fieldsLegal m f = true ↔ FieldsFit m f := by
  simp only [fieldsLegal, FieldsFit, Bool.and_eq_true, Bool.or_eq_true, bne_iff_ne, beq_iff_eq, decide_eq_true_iff,
    incFits_iff, and_assoc, imp_iff_not_or]

theorem countLegal_eq_false_iff (m : XferMode) (f : CtlFields) :
    countLegal m f = false ↔ m = .memSg ∧ (f.xferSize.toNat + 1) % 4 ≠ 0 := by
  simp [countLegal, remaining]

section
variable {m : XferMode} {f : CtlFields} {isAlt chain atAccept : Bool}

theorem checkCtl_of_badMode (h : ¬ ModeFits m isAlt chain) : checkCtl m f isAlt chain atAccept = .error .F05 := by
  rw [← modeLegal_iff] at h
  simp [checkCtl, raise, h]

theorem checkCtl_of_badFields (mode : ModeFits m isAlt chain) (h : ¬ FieldsFit m f) :
    checkCtl m f isAlt chain atAccept = .error .F06 := by
  rw [← modeLegal_iff] at mode
  rw [← fieldsLegal_iff] at h
  simp [checkCtl, raise, mode, h]

section
variable (mode : ModeFits m isAlt chain) (fields : FieldsFit m f)
include mode fields

theorem checkCtl_of_badCount (accept : atAccept = true) (h : countLegal m f = false) :
    checkCtl m f isAlt chain atAccept = .error .F07 := by
  rw [← modeLegal_iff] at mode
  rw [← fieldsLegal_iff] at fields
  simp [checkCtl, raise, mode, fields, accept, h]

theorem checkCtl_of_legal (h : ¬ (atAccept = true ∧ countLegal m f = false)) :
    checkCtl m f isAlt chain atAccept = .ok () := by
  rw [← modeLegal_iff] at mode
  rw [← fieldsLegal_iff] at fields
  have guard : ¬ (atAccept && !countLegal m f) = true := by simpa using h
  simp only [checkCtl, if_neg guard]
  simp [mode, fields]

end

end

/-! ### An engine step on a control word (R151, R152, R155) -/

theorem exec_ctlInstr_idle {m : XferMode} {f : CtlFields} {s : State} (h : s.sge.rs[s.latch.chan] = .idle) :
    exec (ctlInstr m f) s = outcomeOf (sgAccept m f s) := by
  rw [exec_ctlInstr, sgServe, h]

theorem exec_ctlInstr_active {m : XferMode} {f : CtlFields} {b : Budget} {chain : Bool} {s : State}
    (h : s.sge.rs[s.latch.chan] = .active b chain) :
    exec (ctlInstr m f) s = outcomeOf (sgElement m f b chain s) := by
  rw [exec_ctlInstr, sgServe, h]

/-- A control word that is not STOP is checked first, at an accept as at an element step. -/
theorem sgAccept_of_check {m : XferMode} {f : CtlFields} {s : State} {e : Fault} (hm : m ≠ .stop)
    (h : checkCtl m f (hasChan s.sge.altSel s.latch.chan)
      (decide (hasChan s.sge.altSel s.latch.chan = false ∧ m = .memSg)) true = .error e) :
    sgAccept m f s = .error e := by
  have chain : (!hasChan s.sge.altSel s.latch.chan && m == .memSg) =
      decide (hasChan s.sge.altSel s.latch.chan = false ∧ m = .memSg) := by
    rw [Bool.eq_iff_iff]
    simp
  simp only [sgAccept, if_neg hm, chain, h]

theorem sgElement_of_check {m : XferMode} {f : CtlFields} {b : Budget} {chain : Bool} {s : State} {e : Fault}
    (hm : m ≠ .stop) (h : checkCtl m f (hasChan s.sge.altSel s.latch.chan) chain false = .error e) :
    sgElement m f b chain s = .error e := by
  simp only [sgElement, if_neg hm, h]

theorem exec_ctlInstr_idle_of_check {m : XferMode} {f : CtlFields} {s : State} {e : Fault} (hm : m ≠ .stop)
    (idle : s.sge.rs[s.latch.chan] = .idle)
    (h : checkCtl m f (hasChan s.sge.altSel s.latch.chan)
      (decide (hasChan s.sge.altSel s.latch.chan = false ∧ m = .memSg)) true = .error e) :
    exec (ctlInstr m f) s = .fault e := by
  rw [exec_ctlInstr_idle idle, sgAccept_of_check hm h, outcomeOf]

theorem exec_ctlInstr_active_of_check {m : XferMode} {f : CtlFields} {b : Budget} {chain : Bool} {s : State} {e : Fault}
    (hm : m ≠ .stop) (served : s.sge.rs[s.latch.chan] = .active b chain)
    (h : checkCtl m f (hasChan s.sge.altSel s.latch.chan) chain false = .error e) :
    exec (ctlInstr m f) s = .fault e := by
  rw [exec_ctlInstr_active served, sgElement_of_check hm h, outcomeOf]

/-- Settles O46: CheckCtl's four outcomes, and the first of them that exec raises at an accept and at an element step. -/
theorem controlWordCheck : Obligations.ControlWordCheck := by
  refine ⟨fun m f isAlt chain atAccept _ => ⟨checkCtl_of_badMode, checkCtl_of_badFields, ?_, ?_⟩,
    fun m f s hm => ⟨fun idle => ⟨?_, ?_, ?_⟩, fun b chain served => ⟨?_, ?_⟩⟩⟩
  · intro mode fields accept memSg count
    exact checkCtl_of_badCount mode fields accept ((countLegal_eq_false_iff m f).mpr ⟨memSg, count⟩)
  · intro mode fields legal
    rw [← countLegal_eq_false_iff] at legal
    exact checkCtl_of_legal mode fields legal
  · exact fun mode => exec_ctlInstr_idle_of_check hm idle (checkCtl_of_badMode mode)
  · exact fun mode fields => exec_ctlInstr_idle_of_check hm idle (checkCtl_of_badFields mode fields)
  · intro mode fields memSg count
    exact exec_ctlInstr_idle_of_check hm idle
      (checkCtl_of_badCount mode fields rfl ((countLegal_eq_false_iff m f).mpr ⟨memSg, count⟩))
  · exact fun mode => exec_ctlInstr_active_of_check hm served (checkCtl_of_badMode mode)
  · exact fun mode fields => exec_ctlInstr_active_of_check hm served (checkCtl_of_badFields mode fields)

/-! ### STOP, the reserved modes and misaligned elements (R156, R162, R165, R168, R169) -/

theorem sgAccept_stop (f : CtlFields) (s : State) :
    sgAccept .stop f s = .ok { s with sge := { s.sge with
      enable := clearChan s.sge.enable s.latch.chan, req := clearChan s.sge.req s.latch.chan } } := rfl

theorem sgElement_stop (f : CtlFields) (b : Budget) (chain : Bool) (s : State) :
    sgElement .stop f b chain s = .ok (complete s.latch.chan s) := rfl

/-- Settles O44: an accept and an element step of a STOP word, which is not checked. -/
theorem stopDisablesOrCompletes : Obligations.StopDisablesOrCompletes := by
  refine fun f s => ⟨fun idle => ⟨clearChan s.sge.enable s.latch.chan, clearChan s.sge.req s.latch.chan, ?_,
    fun d => ⟨?_, ?_⟩⟩, fun served => ?_⟩
  · exact (exec_ctlInstr_idle (m := .stop) idle).trans (congrArg outcomeOf (sgAccept_stop f s))
  · rw [hasChan_clearChan, decide_eq_decide.mpr eq_comm]
  · rw [hasChan_clearChan, decide_eq_decide.mpr eq_comm]
  · cases run : s.sge.rs[s.latch.chan] with
    | idle => exact absurd run served
    | active b chain =>
      exact (exec_ctlInstr_active (m := .stop) run).trans (congrArg outcomeOf (sgElement_stop f b chain s))

/-- A mode that stands nowhere raises F05, whether the channel is idle or served. -/
theorem exec_ctlInstr_of_neverFits {m : XferMode} (hm : m ≠ .stop) (never : ∀ isAlt chain, ¬ ModeFits m isAlt chain)
    (f : CtlFields) (s : State) : exec (ctlInstr m f) s = .fault .F05 := by
  cases run : s.sge.rs[s.latch.chan] with
  | idle => exact exec_ctlInstr_idle_of_check hm run (checkCtl_of_badMode (never _ _))
  | active b chain => exact exec_ctlInstr_active_of_check hm run (checkCtl_of_badMode (never _ _))

/-- Settles O54: no reserved mode stands anywhere. -/
theorem reservedModesFault : Obligations.ReservedModesFault := fun f s =>
  ⟨exec_ctlInstr_of_neverFits (m := .rsvd3) (by decide) (by simp [ModeFits]) f s,
    exec_ctlInstr_of_neverFits (m := .rsvd6) (by decide) (by simp [ModeFits]) f s,
    exec_ctlInstr_of_neverFits (m := .rsvd7) (by decide) (by simp [ModeFits]) f s⟩

theorem isAligned_eq_false_iff (a : Word) (size : Size) : isAligned a size = false ↔ a.toNat % sizeBytes size ≠ 0 := by
  rw [isAligned, beq_eq_false_iff_ne]

/-- The alignment test comes after the check of the word and before any access of the element (R156). -/
theorem sgElement_of_misaligned {m : XferMode} {f : CtlFields} {b : Budget} {chain : Bool} {s : State} (hm : m ≠ .stop)
    (legal : checkCtl m f (hasChan s.sge.altSel s.latch.chan) chain false = .ok ())
    (h : isAligned (srcAddr f s.latch.srcEnd) (sizeOfCode f.srcSize) = false ∨
      isAligned (dstAddr m f s.latch.dstEnd (hasChan s.sge.altSel s.latch.chan)) (sizeOfCode f.srcSize) = false) :
    sgElement m f b chain s = .error .F09 := by
  simp only [sgElement, if_neg hm, legal, raise]
  rw [if_pos]
  simpa using h

/-- Settles O51: the word passes its check, and the alignment test fails. -/
theorem misalignedElementFaults : Obligations.MisalignedElementFaults := by
  intro m f b chain s c isAlt size hm mode fields served misaligned
  rw [← isAligned_eq_false_iff, ← isAligned_eq_false_iff] at misaligned
  have legal : checkCtl m f isAlt chain false = .ok () := checkCtl_of_legal mode fields (by simp)
  rw [exec_ctlInstr_active served, sgElement_of_misaligned hm legal misaligned, outcomeOf]

/-! ### Operands and write-back (R75, R159) -/

theorem sizeBytes_sizeOfCode : ∀ code : BitVec 2, code ≠ 3#2 → sizeBytes (sizeOfCode code) = 2 ^ code.toNat := by
  decide

theorem incOfCode_eq : ∀ code : BitVec 2, code ≠ 3#2 → incOfCode code = BitVec.ofNat 32 (2 ^ code.toNat) := by
  decide

theorem remaining_sub_one (f : CtlFields) : remaining f - 1 = f.xferSize.toNat := rfl

theorem dstSteps_eq (m : XferMode) (f : CtlFields) (isAlt : Bool) :
    dstSteps m f isAlt = if isAlt = false ∧ m = .memSg then f.xferSize.toNat % 4 else f.xferSize.toNat := rfl

/-- One element fewer to come is one increment nearer to the end. -/
theorem sub_mul_pred (a inc : Word) (n : Nat) :
    a - BitVec.ofNat 32 n * inc = a - BitVec.ofNat 32 (n + 1) * inc + inc := by
  rw [BitVec.ofNat_add, BitVec.add_mul, BitVec.one_mul]
  generalize BitVec.ofNat 32 n * inc = x
  bv_omega

section
variable {f : CtlFields}

/-- The word one element later: its count is one smaller, and every other field is kept (R159). -/
def countedFields (f : CtlFields) : CtlFields := { f with xferSize := f.xferSize - 1#10 }

theorem toNat_xferSize_pred (h : f.xferSize ≠ 0#10) : f.xferSize.toNat = (f.xferSize - 1#10).toNat + 1 := by
  bv_omega

theorem writeBack_of_more (m : XferMode) (h : f.xferSize ≠ 0#10) : writeBack m f = ctlWord m (countedFields f) := by
  have pred := toNat_xferSize_pred h
  have more : remaining f > 1 := by
    rw [remaining]
    omega
  have count : BitVec.ofNat 10 (remaining f - 2) = f.xferSize - 1#10 := by
    rw [remaining, pred, Nat.add_sub_cancel (m := 2), BitVec.ofNat_toNat, BitVec.setWidth_eq]
  rw [writeBack, if_pos more, count, countedFields]

theorem writeBack_of_last (m : XferMode) (h : f.xferSize = 0#10) : writeBack m f = ctlWord .stop f := by
  have last : ¬ remaining f > 1 := by simp [remaining, h]
  rw [writeBack, if_neg last, ← h]

theorem srcAddr_of_more (h : f.xferSize ≠ 0#10) (srcEnd : Word) :
    srcAddr (countedFields f) srcEnd = srcAddr f srcEnd + incOfCode f.srcInc := by
  rw [srcAddr, srcAddr, remaining_sub_one, remaining_sub_one, toNat_xferSize_pred h]
  exact sub_mul_pred srcEnd (incOfCode f.srcInc) _

theorem dstAddr_of_more {m : XferMode} {isAlt : Bool} (h : f.xferSize ≠ 0#10) (noTask : ¬ (isAlt = false ∧ m = .memSg))
    (dstEnd : Word) : dstAddr m (countedFields f) dstEnd isAlt = dstAddr m f dstEnd isAlt + incOfCode f.dstInc := by
  rw [dstAddr, dstAddr, dstSteps_eq, dstSteps_eq, if_neg noTask, if_neg noTask, toNat_xferSize_pred h]
  exact sub_mul_pred dstEnd (incOfCode f.dstInc) _

theorem srcAddr_of_last (h : f.xferSize = 0#10) (srcEnd : Word) : srcAddr f srcEnd = srcEnd := by
  simp [srcAddr, remaining_sub_one, h]

theorem dstAddr_of_last (m : XferMode) (h : f.xferSize = 0#10) (dstEnd : Word) (isAlt : Bool) :
    dstAddr m f dstEnd isAlt = dstEnd := by
  simp [dstAddr, dstSteps_eq, h]

end

/-- Settles O56: the operands, and the written word with its addresses, with more elements to come and after the last. -/
theorem controlWordOperandsAndWriteBack : Obligations.ControlWordOperandsAndWriteBack := by
  refine ⟨fun code small => ⟨sizeBytes_sizeOfCode code small, incOfCode_eq code small⟩, rfl, fun m f =>
    ⟨rfl, rfl, fun _ => rfl, fun _ _ => rfl, fun more => ?_, fun last => ?_⟩⟩
  · rw [writeBack_of_more m more, ctlMode_ctlWord, ctlFields_ctlWord]
    exact ⟨rfl, rfl, srcAddr_of_more more, fun dstEnd _ noTask => dstAddr_of_more more noTask dstEnd⟩
  · rw [writeBack_of_last m last, ctlMode_ctlWord, ctlFields_ctlWord]
    exact ⟨rfl, rfl, srcAddr_of_last last, dstAddr_of_last m last⟩

end Sys2Proof.Laws
end

section
/-! PROOFS (spec/60_exceptions.md). Which accesses get the error response, for the host and for the engine, and the levels of
the interrupt lines bit by bit. -/

namespace Sys2Proof.Laws

open Sys2Proof.Machine

/-! ### Accesses with an error response (R57, R198) -/

theorem regAt_eq_none_iff (off : BitVec 12) : regAt off = none ↔ ∀ r : Reg, regOffset r ≠ off := by
  constructor
  · rintro unassigned r rfl
    rw [regAt_regOffset] at unassigned
    cases unassigned
  · intro unassigned
    rw [Option.eq_none_iff_forall_not_mem]
    exact fun r assigned => unassigned r (regOffset_of_regAt assigned)

theorem busErrApplies_iff (width : Nat) (tw : TxnWord) :
    busErrApplies width tw = true ↔ width ≠ 4 ∨ ∀ r : Reg, regOffset r ≠ txnOffset tw := by
  rw [busErrApplies, Bool.or_eq_true, bne_iff_ne, Option.isNone_iff_eq_none, regAt_eq_none_iff]

theorem windowReg_windowAddr_eq_none_iff (s : State) (off : BitVec 12) (size : Size) :
    windowReg (windowAddr s off) size = none ↔ size ≠ .word ∨ ∀ r : Reg, regOffset r ≠ off := by
  by_cases word : size = .word
  · rw [word, windowReg_windowAddr, regAt_eq_none_iff, or_iff_right (not_not_intro rfl)]
  · rw [windowReg, if_neg word, eq_self, true_iff]
    exact .inl word

theorem exec_busErr (width : Nat) (tw : TxnWord) (d : Word) (s : State) : exec (.busErr width tw d) s = .fault .F10 :=
  rfl

theorem hostTxn_of_busErrApplies {width : Nat} {tw : TxnWord} (d : Word) (s : State) (h : busErrApplies width tw = true) :
    hostTxn width tw d s = .fault .F10 := by
  rw [hostTxn_eq, txnInstr_busErr _ h, exec_busErr]

section
variable {s : State} {off : BitVec 12} {size : Size}

theorem sgeRead_of_noReg (h : windowReg (windowAddr s off) size = none) :
    sgeRead s (windowAddr s off) size = (none, s) := by
  rw [sgeRead, if_pos (inWindow_windowAddr s off), h]

theorem sgeWrite_of_noReg (v : Word) (h : windowReg (windowAddr s off) size = none) :
    sgeWrite s (windowAddr s off) size v = .ok (false, s) := by
  rw [sgeWrite, if_pos (inWindow_windowAddr s off), h]

end

/-- Settles O55: the host's transaction is the BUSERR row, and the engine's access finds no register. -/
theorem errorResponseFaultsOnlyTheHost : Obligations.ErrorResponseFaultsOnlyTheHost := by
  refine ⟨fun width tw d s noRow => ?_, exec_busErr, fun s off size v refused => ?_⟩
  · exact hostTxn_of_busErrApplies d s ((busErrApplies_iff width tw).mpr noRow)
  · have noReg := (windowReg_windowAddr_eq_none_iff s off size).mpr refused
    exact ⟨sgeRead_of_noReg noReg, sgeWrite_of_noReg v noReg⟩

/-! ### The interrupt lines (R200, R201, R202) -/

/-- A status is raised through its mask when some bit is set in both. -/
theorem and_bne_zero_iff {w : Nat} (status mask : BitVec w) :
    ((status &&& mask) != 0#w) = true ↔ ∃ i, i < w ∧ status.getLsbD i = true ∧ mask.getLsbD i = true := by
  rw [bne_iff_ne, ne_eq, BitVec.zero_iff_eq_false]
  push Not
  refine exists_congr fun i => ?_
  rw [ne_eq, Bool.not_eq_false, BitVec.getLsbD_and, Bool.and_eq_true]
  exact ⟨fun both => ⟨BitVec.lt_of_getLsbD both.1, both⟩, And.right⟩

theorem adcIrq_iff (s : State) :
    adcIrq s = true ↔ ∃ i, i < 3 ∧ s.adc.ris.getLsbD i = true ∧ s.adc.im.getLsbD i = true :=
  and_bne_zero_iff s.adc.ris s.adc.im

theorem sgIrq_iff (s : State) :
    sgIrq s = true ↔ ∃ c : Chan, hasChan s.sge.done c = true ∧ hasChan s.sge.doneIm c = true := by
  rw [sgIrq, and_bne_zero_iff, Fin.exists_iff]
  simp only [hasChan, exists_prop]

theorem setWidth_flags_eq_zero_iff (x : BitVec 3) : x.setWidth 32 = 0#32 ↔ x = 0#3 := by
  simp only [BitVec.zero_iff_eq_false, getLsbD_setWidth_flags]

theorem adcIrq_iff_readAdcIsc (s : State) : adcIrq s = true ↔ readAdcIsc s ≠ 0#32 := by
  rw [adcIrq, bne_iff_ne, readAdcIsc, ne_eq, ne_eq, setWidth_flags_eq_zero_iff]

/-- Settles O59: each masked line is high exactly when a flag and its mask bit are, and SG_ERR_IRQ is the flag itself. -/
theorem linesAreTheMaskedStatus : Obligations.LinesAreTheMaskedStatus := fun s =>
  ⟨adcIrq_iff s, ⟨readAdcIsc s, exec_readInstr .adcIsc s, adcIrq_iff_readAdcIsc s⟩, sgIrq_iff s, rfl⟩

end Sys2Proof.Laws
end

section
/-! PROOFS (spec/70_reset_and_hazards.md). What every register reads at reset, and which steps the reset state enables. -/

namespace Sys2Proof.Laws

open Sys2Proof.Machine

/-! ### The engine at reset (R212) -/

theorem rs_reset (c : Chan) : State.reset.sge.rs[c] = .idle :=
  Vector.getElem_replicate c.isLt

theorem activeVector_reset : activeVector State.reset.sge = 0#32 :=
  (activeVector_eq_zero_iff_idle State.reset.sge).mpr rs_reset

/-! ### The register values (R211) -/

/-- SG_ACTIVE is 0 because no channel is served; any other value is its register's fields, all 0 but EMPTY. -/
theorem regRead_reset (r : Reg) (notFifo : r ≠ .adcFifo) :
    regRead r State.reset = (if r = .adcFstat then 0x100#32 else 0#32, State.reset) := by
  cases r with
  | adcFifo => exact absurd rfl notFifo
  | sgActive => exact congrArg (·, State.reset) activeVector_reset
  | _ => rfl

theorem exec_readInstr_reset (r : Reg) (notFifo : r ≠ .adcFifo) :
    exec (readInstr r) State.reset =
      .next { State.reset with rdata := if r = .adcFstat then 0x100#32 else 0#32 } := by
  rw [exec_readInstr, regRead_reset r notFifo, hostReads]

/-- The FIFO is empty at reset, so its first read underflows (R114). -/
theorem exec_rdAdcFifo_reset : ∃ t : State, exec .rdAdcFifo State.reset = .next t ∧ t.adc.ris = 4#3 := by
  have empty : State.reset.seq.fifo = [] := rfl
  rw [exec_rdAdcFifo, readAdcFifo_of_nil empty, hostReads]
  exact ⟨_, rfl, rfl⟩

/-- Settles O10: the reads register by register, the underflow, and the fields of the reset state. -/
theorem resetValues : Obligations.ResetValues :=
  ⟨exec_readInstr_reset, exec_rdAdcFifo_reset, rfl, rfl, rfl, rfl, rfl, rs_reset⟩

/-! ### The lines and the enabled steps (R213) -/

/-- A channel is accepted only while the controller is enabled (R151). -/
theorem acceptEnabled_of_masterOff {s : State} (off : s.sge.masterEn = false) (c : Chan) : acceptEnabled c s = false := by
  rw [acceptEnabled, off, Bool.false_and, Bool.false_and, Bool.false_and]

/-- An element step serves a channel that is not idle (R155). -/
theorem elemEnabled_of_idle {s : State} {c : Chan} (idle : s.sge.rs[c] = .idle) : elemEnabled c s = false := by
  rw [elemEnabled, idle, RunState.isActive]

/-- Settles O11: no flag and no enable bit is set, the controller is off and every channel idle. -/
theorem resetEnablesOnlyTheHost : Obligations.ResetEnablesOnlyTheHost :=
  ⟨rfl, rfl, rfl, rfl, rfl, rfl, fun c => ⟨acceptEnabled_of_masterOff rfl c, elemEnabled_of_idle (rs_reset c)⟩⟩

end Sys2Proof.Laws
end

section
/-! PROOFS (spec/30_encoding.md). Encoding and decoding: every instruction's bytes, the one row of every transaction word,
and the bits of a control word. -/

namespace Sys2Proof.Laws

/-! ### Instructions and their bytes (R67 to R69, R78) -/

/-- Settles O1, row by row: a register's rows are its two transaction words, a control word's row is its mode's, and BUSERR
keeps the access it answers. -/
theorem encodedInstructionDecodesBack : Obligations.EncodedInstructionDecodesBack := by
  intro i
  show EncodeDecode.Statement i
  cases i with
  | rdTmrCtl => exact EncodeDecode.rdTmrCtl
  | wrTmrCtl data => exact EncodeDecode.wrTmrCtl data
  | rdTmrLoad => exact EncodeDecode.rdTmrLoad
  | wrTmrLoad data => exact EncodeDecode.wrTmrLoad data
  | rdTmrValue => exact EncodeDecode.rdTmrValue
  | wrTmrValue data => exact EncodeDecode.wrTmrValue data
  | rdAdcCtl => exact EncodeDecode.rdAdcCtl
  | wrAdcCtl data => exact EncodeDecode.wrAdcCtl data
  | rdAdcStepcfg => exact EncodeDecode.rdAdcStepcfg
  | wrAdcStepcfg data => exact EncodeDecode.wrAdcStepcfg data
  | rdAdcPssi => exact EncodeDecode.rdAdcPssi
  | wrAdcPssi data => exact EncodeDecode.wrAdcPssi data
  | rdAdcRis => exact EncodeDecode.rdAdcRis
  | wrAdcRis data => exact EncodeDecode.wrAdcRis data
  | rdAdcIm => exact EncodeDecode.rdAdcIm
  | wrAdcIm data => exact EncodeDecode.wrAdcIm data
  | rdAdcIsc => exact EncodeDecode.rdAdcIsc
  | wrAdcIsc data => exact EncodeDecode.wrAdcIsc data
  | rdAdcFifo => exact EncodeDecode.rdAdcFifo
  | wrAdcFifo data => exact EncodeDecode.wrAdcFifo data
  | rdAdcFstat => exact EncodeDecode.rdAdcFstat
  | wrAdcFstat data => exact EncodeDecode.wrAdcFstat data
  | rdSgCfg => exact EncodeDecode.rdSgCfg
  | wrSgCfg data => exact EncodeDecode.wrSgCfg data
  | rdSgCtlbase => exact EncodeDecode.rdSgCtlbase
  | wrSgCtlbase data => exact EncodeDecode.wrSgCtlbase data
  | rdSgEnaset => exact EncodeDecode.rdSgEnaset
  | wrSgEnaset data => exact EncodeDecode.wrSgEnaset data
  | rdSgEnaclr => exact EncodeDecode.rdSgEnaclr
  | wrSgEnaclr data => exact EncodeDecode.wrSgEnaclr data
  | rdSgAltset => exact EncodeDecode.rdSgAltset
  | wrSgAltset data => exact EncodeDecode.wrSgAltset data
  | rdSgAltclr => exact EncodeDecode.rdSgAltclr
  | wrSgAltclr data => exact EncodeDecode.wrSgAltclr data
  | rdSgSwreq => exact EncodeDecode.rdSgSwreq
  | wrSgSwreq data => exact EncodeDecode.wrSgSwreq data
  | rdSgErrclr => exact EncodeDecode.rdSgErrclr
  | wrSgErrclr data => exact EncodeDecode.wrSgErrclr data
  | rdSgDone => exact EncodeDecode.rdSgDone
  | wrSgDone data => exact EncodeDecode.wrSgDone data
  | rdSgDoneim => exact EncodeDecode.rdSgDoneim
  | wrSgDoneim data => exact EncodeDecode.wrSgDoneim data
  | rdSgActive => exact EncodeDecode.rdSgActive
  | wrSgActive data => exact EncodeDecode.wrSgActive data
  | busErr width tw data => exact EncodeDecode.busErr width tw data
  | sgctlStop f => exact EncodeDecode.sgctlStop f
  | sgctlBasic f => exact EncodeDecode.sgctlBasic f
  | sgctlAuto f => exact EncodeDecode.sgctlAuto f
  | sgctlRsvd3 f => exact EncodeDecode.sgctlRsvd3 f
  | sgctlMemSg f => exact EncodeDecode.sgctlMemSg f
  | sgctlAltSg f => exact EncodeDecode.sgctlAltSg f
  | sgctlRsvd6 f => exact EncodeDecode.sgctlRsvd6 f
  | sgctlRsvd7 f => exact EncodeDecode.sgctlRsvd7 f

/-- Settles O4: both sides are closed terms, and the decoder evaluates to the row. -/
theorem specWordsDecodeAsWritten : Obligations.SpecWordsDecodeAsWritten :=
  ⟨rfl, rfl, rfl, rfl, rfl, rfl, rfl, rfl, rfl⟩

/-! ### The rows of a transaction word (R50, R69) -/

theorem regOffset_injective : Function.Injective regOffset := by
  intro r q same
  have found : some r = some q := by rw [← regAt_regOffset r, same, regAt_regOffset]
  exact Option.some.inj found

theorem txnInstr_of_regOffset {tw : TxnWord} {r : Reg} (h : txnOffset tw = regOffset r) (d : Word) :
    txnInstr 4 tw d = if isWriteTxn tw then writeInstr r d else readInstr r := by
  rw [txnInstr, if_pos rfl, h, regAt_regOffset]

/-- Settles O2: the word's row is `txnInstr`'s, which finds the register at the offset or finds none. -/
theorem transactionWordMatchesOneRow : Obligations.TransactionWordMatchesOneRow := by
  refine ⟨regOffset_injective, fun width tw d rest => ⟨fun r word found => ?_, fun noRow => ?_⟩⟩
  · rw [decode_txnBytes, word, txnInstr_of_regOffset found]
    cases isWriteTxn tw <;> rfl
  · have noReg : busErrApplies width tw = true :=
      (busErrApplies_iff width tw).mpr (noRow.imp_right fun none r => (none r).symm)
    rw [decode_txnBytes, txnInstr_busErr _ noReg]

/-! ### The bits of a control word (R74, R76) -/

theorem modeCode_modeOfCode : ∀ b : BitVec 3, modeCode (modeOfCode b) = b := by
  decide

/-- Settles O3: the mode's code and the fields are adjacent pieces of the word. -/
theorem controlWordKeepsEveryBit : Obligations.ControlWordKeepsEveryBit := by
  intro w
  simp only [ctlWord, ctlMode, ctlFields, modeCode_modeOfCode]
  simp (disch := decide) only [BitVec.extractLsb'_append_extractLsb'_eq_extractLsb']
  exact BitVec.extractLsb'_eq_self

end Sys2Proof.Laws
end

section
/-! PROOFS (spec/41_adc_sequencer.md, sections 5 and 6). The draws of one conversion and the floor of their mean, and the
positions a running sequence passes through. -/

namespace Sys2Proof.Laws

open Sys2Proof.Machine

/-! ### Draws and their mean (R119, R120) -/

theorem drawSum_succ (input : BitVec 4) (n : Nat) (s : State) :
    drawSum input (n + 1) s =
      ((drawSample input s).1.toNat + (drawSum input n (drawSample input s).2).1,
        (drawSum input n (drawSample input s).2).2) := rfl

theorem drawSample_of_cons (input : BitVec 4) {s : State} {v : Sample} {rest : List Sample}
    (h : s.env.samples = v :: rest) :
    drawSample input s = (v, { s with env := { s.env with samples := rest } }) := by
  rw [drawSample, h]

/-- Conversions already chosen are drawn in order, and the rest of them stay. -/
theorem drawSum_of_given (input : BitVec 4) (given rest : List Sample) (s : State) (h : s.env.samples = given ++ rest) :
    drawSum input given.length s =
      ((given.map BitVec.toNat).sum, { s with env := { s.env with samples := rest } }) := by
  induction given generalizing s with
  | nil =>
    rw [List.nil_append] at h
    rw [← h]
    rfl
  | cons v given ih =>
    rw [List.length_cons, drawSum_succ, drawSample_of_cons input h, ih _ rfl, List.map_cons, List.sum_cons]

/-- A raw conversion is at most 4095 (R27). -/
theorem drawSum_le (input : BitVec 4) (n : Nat) (s : State) : (drawSum input n s).1 ≤ n * 4095 := by
  induction n generalizing s with
  | zero => exact Nat.le_refl 0
  | succ n ih =>
    have first : (drawSample input s).1.toNat ≤ 4095 := Nat.le_of_lt_succ (drawSample input s).1.isLt
    have others := ih (drawSample input s).2
    rw [drawSum_succ]
    omega

/-- The mean of N draws is a sample, so the report keeps all its bits. -/
theorem toNat_average {total n : Nat} (h : total ≤ n * 4095) : (average total n).toNat = total / n := by
  have mean : total / n ≤ 4095 := Nat.div_le_of_le_mul h
  rw [average, BitVec.toNat_ofNat]
  exact Nat.mod_eq_of_lt (Nat.lt_succ_of_le mean)

theorem average_one (v : Sample) : average v.toNat 1 = v := by
  rw [average, Nat.div_one, BitVec.ofNat_toNat, BitVec.setWidth_eq]

/-- Settles O32: the chosen draws, the bound on N draws, and the mean that the bound lets the report hold. -/
theorem oversamplingReportsTheFloorOfTheMean : Obligations.OversamplingReportsTheFloorOfTheMean := by
  refine ⟨drawSum_of_given, fun input k s small => ⟨?_, ?_⟩, average_one⟩
  · have few : 2 ^ k ≤ 2 ^ 6 := Nat.pow_le_pow_right (by decide) small
    calc (drawSum input (2 ^ k) s).1 ≤ 2 ^ k * 4095 := drawSum_le input (2 ^ k) s
      _ ≤ 2 ^ 6 * 4095 := Nat.mul_le_mul_right 4095 few
  · exact toNat_average (drawSum_le input (2 ^ k) s)

/-! ### The positions of a running sequence (R120, R122) -/

/-- A conversion moves to the next step, or ends the sequence at a step with END; it leaves the configuration alone. -/
theorem seqConv_position {s : State} (busy : s.seq.busy = true) :
    (seqConv s).seq.busy = !(s.adc.steps[s.seq.step]).last ∧
      (seqConv s).seq.step = (if (s.adc.steps[s.seq.step]).last then 0 else s.seq.step + 1) ∧
      (seqConv s).adc.steps = s.adc.steps := by
  have performed : perform .seqConv s = .next (seqConv s) := by rw [perform, convEnabled, if_pos busy]
  have conv := conversionStep.2 s busy
  rw [performed] at conv
  rw [Host.Outcome.next.inj conv]
  exact ⟨rfl, rfl, rfl⟩

/-- A sequence that runs at step k of a configuration (R40). -/
def RunsAt (steps : Vector StepCfg 4) (k : StepIx) (s : State) : Prop :=
  s.seq.busy = true ∧ s.seq.step = k ∧ s.adc.steps = steps

theorem seqConv_of_more {steps : Vector StepCfg 4} {k : StepIx} {s : State} (h : RunsAt steps k s)
    (more : (steps[k]).last = false) : RunsAt steps (k + 1) (seqConv s) := by
  obtain ⟨busy, rfl, rfl⟩ := h
  obtain ⟨busy', step', steps'⟩ := seqConv_position busy
  rw [more] at busy' step'
  exact ⟨busy', step', steps'⟩

theorem seqConv_of_end {steps : Vector StepCfg 4} {k : StepIx} {s : State} (h : RunsAt steps k s)
    (last : (steps[k]).last = true) : (seqConv s).seq.busy = false ∧ (seqConv s).seq.step = 0 := by
  obtain ⟨busy, rfl, rfl⟩ := h
  obtain ⟨busy', step', _⟩ := seqConv_position busy
  rw [last] at busy' step'
  exact ⟨busy', step'⟩

/-- While no END step has been converted, j conversions from step 0 lead to step j. -/
theorem runsAt_seqConvs {s : State} (start : RunsAt s.adc.steps 0 s) (j : Nat) (hj : j < 4)
    (noEnd : ∀ k : StepIx, k.val < j → (s.adc.steps[k]).last = false) :
    RunsAt s.adc.steps ⟨j, hj⟩ (seqConvs j s) := by
  induction j with
  | zero => exact start
  | succ j ih =>
    have before := ih (Nat.lt_of_succ_lt hj) fun k hk => noEnd k (Nat.lt_succ_of_lt hk)
    have next : (⟨j, Nat.lt_of_succ_lt hj⟩ + 1 : StepIx) = ⟨j + 1, hj⟩ := Fin.ext (Nat.mod_eq_of_lt hj)
    rw [seqConvs_succ, ← next]
    exact seqConv_of_more before (noEnd _ (Nat.lt_succ_self j))

/-- Settles O34: the sequence runs at step j up to e, and the conversion of step e ends it. -/
theorem sequenceConvertsUpToTheFirstEnd : Obligations.SequenceConvertsUpToTheFirstEnd := by
  intro s e busy first last noEnd
  have position (j : StepIx) (hj : j.val ≤ e.val) : RunsAt s.adc.steps j (seqConvs j.val s) :=
    runsAt_seqConvs ⟨busy, first, rfl⟩ j.val j.isLt fun k hk => noEnd k (Nat.lt_of_lt_of_le hk hj)
  refine ⟨fun j hj => ?_, ?_⟩
  · obtain ⟨runs, step, _⟩ := position j hj
    exact ⟨runs, step⟩
  · rw [seqConvs_succ]
    exact seqConv_of_end (position e (Nat.le_refl _)) last

end Sys2Proof.Laws
end

section
/-! PROOFS (spec/00_scope.md R7; spec/30_encoding.md sections 1 and 8; spec/60_exceptions.md R196; spec/42_sg_engine.md R151;
spec/70_reset_and_hazards.md R210 to R216). The step: what it performs, that it is never refused and keeps the block's
invariant, which steps are enabled, and the host's memory accesses. -/

namespace Sys2Proof.Laws

open Sys2Proof.Machine Sys2Proof.Claims

/-! ### A step of a state without a recorded fault (R196, R204) -/

theorem step_of_noFault {s : State} (h : s.fault = none) : step s = perform (nextOp s).1 (nextOp s).2 := by
  rw [step, h]

theorem step_of_nextOp {s t : State} {op : Op} (h : s.fault = none) (next : nextOp s = (op, t)) :
    step s = perform op t := by
  rw [step_of_noFault h, next]

theorem step_of_fault {s : State} {f : Fault} (h : s.fault = some f) : step s = .fault f := by
  rw [step, h]

/-- Only a state without a recorded fault has a next state. -/
theorem step_eq_next {s t : State} (h : step s = .next t) : perform (nextOp s).1 (nextOp s).2 = .next t := by
  cases recorded : s.fault with
  | none => rwa [← step_of_noFault recorded]
  | some f =>
    rw [step_of_fault recorded] at h
    cases h

/-- Settles O5: the script's head or the free operation is performed, and a transaction runs what its bytes decode to. -/
theorem stepPerformsTheNextOperation : Obligations.StepPerformsTheNextOperation := by
  refine ⟨fun s op rest noFault script => ?_, fun s noFault script => ?_, ?_⟩
  · exact step_of_nextOp noFault (by rw [nextOp, script])
  · exact step_of_nextOp noFault (by rw [nextOp, script, countDraw])
  · intro s t width tw d i rest noFault next decoded _
    rw [step_of_nextOp noFault next, perform, hostTxn, runBytes, decoded]

/-- Settles O7: the record of a fault is all that `afterStep` writes, and it is what the next step answers. -/
theorem faultEndsTheRun : Obligations.FaultEndsTheRun := by
  refine ⟨fun s f raised => ?_, fun s f => step_of_fault⟩
  have recorded : afterStep s = { s with fault := some f } := by rw [afterStep, raised]
  rw [recorded]
  exact ⟨rfl, step_of_fault rfl⟩

/-! ### No step is refused (R69, R76) -/

theorem outcomeOf_ne_refused (x : Except Fault State) (r : Refusal) : outcomeOf x ≠ .refused r := by
  cases x <;> exact nofun

theorem hostTxn_ne_refused (width : Nat) (tw : TxnWord) (d : Word) (s : State) (r : Refusal) :
    hostTxn width tw d s ≠ .refused r := by
  rw [hostTxn_eq, txnInstr]
  split
  · split
    · split
      · rw [exec_writeInstr]
        exact outcomeOf_ne_refused _ r
      · rw [exec_readInstr]
        exact nofun
    · exact nofun
  · exact nofun

/-- An engine step's control word is run as a row of its own, whatever the word is. -/
theorem endSgStep_runBytes_ne_refused (ctl : Word) (s : State) (r : Refusal) :
    endSgStep (runBytes .sgCtl (wordBytes ctl) s) ≠ .refused r := by
  rw [runBytes_wordBytes, exec_ctlInstr]
  cases sgServe (ctlMode ctl) (ctlFields ctl) s <;> exact nofun

theorem acceptStep_ne_refused (c : Chan) (s : State) (r : Refusal) : acceptStep c s ≠ .refused r := by
  rw [acceptStep]
  split
  · exact nofun
  · exact endSgStep_runBytes_ne_refused _ _ r

theorem elemStep_ne_refused (c : Chan) (s : State) (r : Refusal) : elemStep c s ≠ .refused r := by
  rw [elemStep]
  split
  · exact nofun
  · exact endSgStep_runBytes_ne_refused _ _ r

theorem hostMemRead_ne_refused (a : Word) (s : State) (r : Refusal) : hostMemRead a s ≠ .refused r := by
  rw [hostMemRead]
  split
  · exact hostTxn_ne_refused _ _ _ s r
  · exact nofun

theorem hostMemWrite_ne_refused (a v : Word) (s : State) (r : Refusal) : hostMemWrite a v s ≠ .refused r := by
  rw [hostMemWrite]
  split
  · exact hostTxn_ne_refused _ _ _ s r
  · exact nofun

theorem perform_ne_refused (op : Op) (s : State) (r : Refusal) : perform op s ≠ .refused r := by
  cases op with
  | reg width tw d => exact hostTxn_ne_refused width tw d s r
  | memRead a => exact hostMemRead_ne_refused a s r
  | memWrite a v => exact hostMemWrite_ne_refused a v s r
  | memSave a => exact hostMemWrite_ne_refused a s.rdata s r
  | tick => exact nofun
  | seqStart =>
    rw [perform]
    split
    · exact outcomeOf_ne_refused _ r
    · exact nofun
  | seqConv => exact nofun
  | sgAccept c =>
    rw [perform]
    split
    · exact acceptStep_ne_refused c s r
    · exact nofun
  | sgElem c =>
    rw [perform]
    split
    · exact elemStep_ne_refused c s r
    · exact nofun

/-- Settles O9: a recorded fault is answered again, and no operation is refused. -/
theorem noStepIsRefused : Obligations.NoStepIsRefused := by
  intro s r
  cases recorded : s.fault with
  | none =>
    rw [step_of_noFault recorded]
    exact perform_ne_refused _ _ r
  | some f =>
    rw [step_of_fault recorded]
    exact nofun

/-! ### The invariant of the block -/

theorem inv_of_env {s : State} (e : Env) (hi : Inv s) : Inv { s with env := e } :=
  ⟨coreInv_of_env e hi.core, hi.latch⟩

theorem inv_of_memWrite {s : State} (a : Word) (size : Size) (v : Word) (hi : Inv s) :
    Inv { s with mem := memWrite s.mem a size v } :=
  ⟨⟨hi.core.timer, hi.core.codes, hi.core.fifo, hi.core.sequence, hi.core.pending, hi.core.table, hi.core.one,
    hi.core.enabled, hi.core.budget, memWf_memWrite a size v hi.core.memory⟩, hi.latch⟩

theorem inv_hostMemRead {a : Word} {s t : State} (h : hostMemRead a s = .next t) (hi : Inv s) : Inv t := by
  rw [hostMemRead] at h
  split at h
  · exact inv_hostTxn h hi
  · cases h
    exact ⟨coreInv_of_rdata _ hi.core, hi.latch⟩

theorem inv_hostMemWrite {a v : Word} {s t : State} (h : hostMemWrite a v s = .next t) (hi : Inv s) : Inv t := by
  rw [hostMemWrite] at h
  split at h
  · exact inv_hostTxn h hi
  · cases h
    exact inv_of_memWrite a .word v hi

theorem inv_tmrTick {s : State} (hi : Inv s) : Inv (tmrTick s) :=
  ⟨coreInv_tmrTick hi.core, by
    rw [tmrTick_frame]
    exact hi.latch⟩

theorem inv_seqConv {s : State} (busy : s.seq.busy = true) (hi : Inv s) : Inv (seqConv s) := by
  refine ⟨coreInv_seqConv busy hi.core, ?_⟩
  obtain ⟨_, _, _, _, _, _, frame⟩ := seqConv_frame s
  rw [frame]
  exact hi.latch

theorem inv_seqStart {s t : State} (h : seqStart s = .ok t) (enabled : startEnabled s = true) (hi : Inv s) : Inv t := by
  refine ⟨coreInv_seqStart h enabled hi.core, ?_⟩
  rw [seqStart] at h
  split at h
  · cases h
  · cases h
    exact hi.latch

theorem inv_of_readEffect {s t : State} (h : ReadEffect s t) (hi : Inv s) : Inv t :=
  ⟨coreInv_of_readEffect h hi.core, (readEffect_latch h).trans hi.latch⟩

theorem inv_structAbort (c : Chan) {s : State} (hi : Inv s) : Inv (structAbort c s) :=
  ⟨coreInv_structAbort c hi.core, hi.latch⟩

theorem inv_clearRequest (c : Chan) {s : State} (hi : Inv s) : Inv (clearRequest c s) :=
  ⟨coreInv_clearRequest c hi.core, hi.latch⟩

theorem acceptEnabled_iff (c : Chan) (s : State) :
    acceptEnabled c s = true ↔ s.sge.masterEn = true ∧ hasChan s.sge.enable c = true ∧ hasChan s.sge.req c = true ∧
      ∀ d : Chan, s.sge.rs[d] = .idle := by
  simp only [acceptEnabled, Bool.and_eq_true, beq_iff_eq, activeVector_eq_zero_iff_idle, and_assoc]

theorem elemEnabled_iff (c : Chan) (s : State) : elemEnabled c s = true ↔ s.sge.rs[c] ≠ .idle :=
  isActive_iff s.sge.rs[c]

/-- Settles O43: the two conditions, which disagree on whether a channel is idle. -/
theorem arbitrationEnablesOneAtATime : Obligations.ArbitrationEnablesOneAtATime := by
  refine fun s c => ⟨acceptEnabled_iff c s, elemEnabled_iff c s, fun served d => ?_⟩
  rw [Bool.eq_false_iff]
  intro accepts
  obtain ⟨_, _, _, idle⟩ := (acceptEnabled_iff d s).mp accepts
  exact (elemEnabled_iff c s).mp served (idle c)

/-- An accept leaves the fetch of an idle channel's word, which the engine may then serve, or its abort. -/
theorem inv_acceptStep {c : Chan} {s t : State} (enabled : acceptEnabled c s = true) (h : acceptStep c s = .next t)
    (hi : Inv s) : Inv t := by
  obtain ⟨master, enable, _, idle⟩ := (acceptEnabled_iff c s).mp enabled
  rcases fetchAccept_spec c s with ⟨u, fetch, read⟩ | ⟨ctl, u, l, fetch, read, rfl⟩
  · simp only [acceptStep, fetch] at h
    cases h
    exact inv_structAbort c (inv_clearRequest c (inv_of_readEffect read hi))
  · simp only [acceptStep, fetch] at h
    exact inv_engineStep read hi.core (fun _ => ⟨master, enable, fun d => by rw [idle d, RunState.isActive]⟩) h

theorem inv_elemStep {c : Chan} {s t : State} (enabled : elemEnabled c s = true) (h : elemStep c s = .next t)
    (hi : Inv s) : Inv t := by
  have served := (elemEnabled_iff c s).mp enabled
  rcases fetchElem_spec c s with ⟨u, fetch, read⟩ | ⟨ctl, u, l, fetch, read, rfl⟩
  · simp only [elemStep, fetch] at h
    cases h
    exact inv_structAbort c (inv_of_readEffect read hi)
  · simp only [elemStep, fetch] at h
    exact inv_engineStep read hi.core (fun idle => absurd idle served) h

/-- Every operation keeps the invariant; an agent step that is not enabled keeps the state. -/
theorem inv_perform {op : Op} {s t : State} (h : perform op s = .next t) (hi : Inv s) : Inv t := by
  cases op with
  | reg width tw d => exact inv_hostTxn h hi
  | memRead a => exact inv_hostMemRead h hi
  | memWrite a v => exact inv_hostMemWrite h hi
  | memSave a => exact inv_hostMemWrite h hi
  | tick =>
    cases h
    split
    · exact inv_tmrTick hi
    · exact hi
  | seqStart =>
    rw [perform] at h
    split at h
    · next enabled => exact inv_seqStart (outcomeOf_eq_next.mp h) enabled hi
    · cases h
      exact hi
  | seqConv =>
    cases h
    split
    · next busy => exact inv_seqConv busy hi
    · exact hi
  | sgAccept c =>
    rw [perform] at h
    split at h
    · next enabled => exact inv_acceptStep enabled h hi
    · cases h
      exact hi
  | sgElem c =>
    rw [perform] at h
    split at h
    · next enabled => exact inv_elemStep enabled h hi
    · cases h
      exact hi

/-- Settles O14: taking the next operation changes the environment alone, and performing it keeps the invariant. -/
theorem stepKeepsTheInvariant : Obligations.StepKeepsTheInvariant := by
  intro s t hi h
  have taken : Inv (nextOp s).2 := by
    rw [nextOp_spec]
    exact inv_of_env _ hi
  exact inv_perform (step_eq_next h) taken

theorem not_isActive_reset (c : Chan) : ¬ (State.reset.sge.rs[c]).isActive = true := by
  rw [isActive_iff, rs_reset]
  exact not_not_intro rfl

/-- Settles O13: nothing runs, nothing is latched and no channel is served at reset. -/
theorem resetHasTheInvariant : Obligations.ResetHasTheInvariant where
  core := {
    timer := nofun
    codes := ⟨by decide, by decide⟩
    fifo := Nat.zero_le _
    sequence := ⟨nofun, fun _ => rfl⟩
    pending := nofun
    table := rfl
    one := fun c _ served => absurd served (not_isActive_reset c)
    enabled := fun c served => absurd served (not_isActive_reset c)
    budget := fun c n chain served => by
      rw [rs_reset] at served
      cases served
    memory := rfl }
  latch := rfl

/-- Settles O12: the reset takes its fields from the reset state and keeps the memory and the record. -/
theorem resetKeepsMemoryAndFault : Obligations.ResetKeepsMemoryAndFault :=
  fun _ => ⟨rfl, rfl, rfl, rfl, rfl, fun _ => rfl⟩

/-! ### Steps that are not enabled (R7) -/

/-- Settles O8: each step asks for its own condition first. -/
theorem disabledStepChangesNothing : Obligations.DisabledStepChangesNothing := by
  refine fun s c => ⟨fun stopped => ?_, fun noStart => ?_, fun idle => ?_, fun idle => ?_, fun refused => ?_⟩
  · rw [perform, tickEnabled, stopped, if_neg Bool.false_ne_true]
  · rw [← startEnabled_iff] at noStart
    rw [perform, if_neg noStart]
  · rw [perform, convEnabled, idle, if_neg Bool.false_ne_true]
  · rw [perform, elemEnabled_of_idle idle, if_neg Bool.false_ne_true]
  · have noAccept : ¬ acceptEnabled c s = true := by
      rw [acceptEnabled_iff]
      rintro ⟨master, enable, req, idle⟩
      rcases refused with off | off | off | ⟨d, served⟩
      · simp [off] at master
      · simp [off] at enable
      · simp [off] at req
      · exact served (idle d)
    rw [perform, if_neg noAccept]

/-! ### The host's accesses of system memory (R46, R83) -/

section
variable {s : State} {a : Word} (out : Outside s a)
include out

theorem hostMemRead_outside : hostMemRead a s = .next { s with rdata := memRead s.mem a .word } := by
  rw [hostMemRead, inWindow_eq_false out, if_neg Bool.false_ne_true, hostReads]

theorem hostMemWrite_outside (v : Word) : hostMemWrite a v s = .next { s with mem := memWrite s.mem a .word v } := by
  rw [hostMemWrite, inWindow_eq_false out, if_neg Bool.false_ne_true]

end

theorem memRead_memWrite_word (m : Memory) (a v : Word) : memRead (memWrite m a .word v) a .word = v := by
  rw [memRead_memWrite]
  simp [sizeBytes]

/-- Settles O58: the accesses of one word, and its read-back. -/
theorem hostMemoryAccess : Obligations.HostMemoryAccess := by
  refine fun s a v out => ⟨hostMemRead_outside out, hostMemWrite_outside out v, hostMemWrite_outside out s.rdata, ?_⟩
  have read := hostMemRead_outside (s := { s with mem := memWrite s.mem a .word v }) out
  rw [memRead_memWrite_word] at read
  exact read

end Sys2Proof.Laws
end

section
/-! PROOFS (spec/10_state.md section 7; spec/20_memory.md section 4). What a register access leaves alone, for the host and
for the engine. -/

namespace Sys2Proof.Laws

open Sys2Proof.Machine

/-! ### Status flags (R45, R199) -/

/-- From s to t no flag of ADC_RIS, SG_ERR or SG_DONE has risen. -/
def NoFlagRises (s t : State) : Prop :=
  (∀ i, t.adc.ris.getLsbD i = true → s.adc.ris.getLsbD i = true) ∧ (t.sge.err = true → s.sge.err = true) ∧
    ∀ c : Chan, hasChan t.sge.done c = true → hasChan s.sge.done c = true

theorem noFlagRises_of_eq {s t : State} (ris : t.adc.ris = s.adc.ris) (err : t.sge.err = s.sge.err)
    (done : t.sge.done = s.sge.done) : NoFlagRises s t := by
  rw [NoFlagRises, ris, err, done]
  exact ⟨fun _ => id, id, fun _ => id⟩

theorem writeAdcIsc_noFlagRises {d : Word} {s t : State} (h : writeAdcIsc d s = .ok t) : NoFlagRises s t := by
  cases h
  refine ⟨fun i => ?_, id, fun _ => id⟩
  rw [clearRis_adc_ris, getLsbD_and_not_setWidth, Bool.and_eq_true]
  exact And.left

theorem writeSgErrclr_noFlagRises {d : Word} {s t : State} (h : writeSgErrclr d s = .ok t) : NoFlagRises s t := by
  rw [writeSgErrclr_eq] at h
  cases h
  exact ⟨fun _ => id, fun risen => ((Bool.and_eq_true _ _).mp risen).1, fun _ => id⟩

theorem writeSgDone_noFlagRises {d : Word} {s t : State} (h : writeSgDone d s = .ok t) : NoFlagRises s t := by
  cases h
  refine ⟨fun _ => id, id, fun c => ?_⟩
  rw [hasChan_and_not, Bool.and_eq_true]
  exact And.left

/-- A write that gets past its fault test does what stands after the test. -/
theorem ok_of_guarded {p : Prop} [Decidable p] {f : Fault} {x : Except Fault State} {t : State}
    (h : (if p then raise f else x) = .ok t) : x = .ok t := by
  split at h
  · cases h
  · exact h

/-- A register write clears flags or leaves them: ADC_ISC, SG_ERRCLR and SG_DONE clear, every other leaves them. -/
theorem regWrite_noFlagRises {r : Reg} {d : Word} {s t : State} (h : regWrite r d s = .ok t) : NoFlagRises s t := by
  cases r with
  | adcIsc => exact writeAdcIsc_noFlagRises h
  | sgErrclr => exact writeSgErrclr_noFlagRises h
  | sgDone => exact writeSgDone_noFlagRises h
  | adcPssi =>
    cases (writeAdcPssi_eq d s).symm.trans h
    exact noFlagRises_of_eq rfl rfl rfl
  | sgSwreq =>
    cases (congrArg Except.ok (requestChans_eq d s)).symm.trans h
    exact noFlagRises_of_eq rfl rfl rfl
  | adcCtl =>
    cases ok_of_guarded (ok_of_guarded h)
    exact noFlagRises_of_eq rfl rfl rfl
  | tmrCtl | tmrLoad | adcStepcfg | sgCfg | sgCtlbase | sgEnaclr | sgAltset | sgAltclr =>
    cases ok_of_guarded h
    exact noFlagRises_of_eq rfl rfl rfl
  | tmrValue | adcRis | adcIm | adcFifo | adcFstat | sgEnaset | sgDoneim | sgActive =>
    cases h
    exact noFlagRises_of_eq rfl rfl rfl

/-! ### Transactions of the host (R45, R55, R69) -/

/-- A read transaction's word is its register's offset. -/
theorem eq_readTxn {tw : TxnWord} {r : Reg} (read : isWriteTxn tw = false) (found : txnOffset tw = regOffset r) :
    tw = readTxn r := by
  apply BitVec.eq_of_getLsbD_eq
  intro i hi
  rw [readTxn, ← found, txnOffset, BitVec.getLsbD_setWidth, BitVec.getLsbD_setWidth]
  rcases Nat.lt_succ_iff_lt_or_eq.mp hi with low | rfl
  · simp [hi, low]
  · exact read

/-- A host transaction that completes is the write or the read of one register. -/
theorem hostTxn_eq_next {width : Nat} {tw : TxnWord} {d : Word} {s t : State} (h : hostTxn width tw d s = .next t) :
    ∃ r : Reg, regWrite r d s = .ok t ∨ (tw = readTxn r ∧ t = { (regRead r s).2 with rdata := (regRead r s).1 }) := by
  rw [hostTxn_eq, txnInstr] at h
  split at h
  · split at h
    · next r found =>
      have offset := (regOffset_of_regAt found).symm
      refine ⟨r, ?_⟩
      cases write : isWriteTxn tw with
      | true =>
        rw [write, if_pos rfl, if_pos rfl, exec_writeInstr, outcomeOf_eq_next] at h
        exact .inl h
      | false =>
        rw [write, if_neg Bool.false_ne_true, exec_readInstr] at h
        cases h
        exact .inr ⟨eq_readTxn write offset, rfl⟩
    · cases h
  · cases h

/-- Only a read of ADC_FIFO has a side effect (R55). -/
theorem regRead_of_ne_adcFifo {r : Reg} (h : r ≠ .adcFifo) (s : State) : (regRead r s).2 = s := by
  cases r with
  | adcFifo => exact absurd rfl h
  | _ => rfl

/-- The free input of an underflowing FIFO read is no operation, no answer and no raw conversion. -/
theorem drawWord_env (s : State) :
    (drawWord s).2.env.script = s.env.script ∧ (drawWord s).2.env.responses = s.env.responses ∧
      (drawWord s).2.env.samples = s.env.samples := by
  rw [drawWord]
  split <;> exact ⟨rfl, rfl, rfl⟩

/-- A read of ADC_FIFO changes the FIFO, UV and the values of underflowing reads to come (R114). -/
theorem readAdcFifo_spec (s : State) :
    ∃ fifo ris env, (readAdcFifo s).2 = { s with seq := { s.seq with fifo := fifo }, adc := { s.adc with ris := ris },
                                                 env := env } ∧
      (ris = s.adc.ris ∨ ris = s.adc.ris ||| bitUV) ∧ env.script = s.env.script ∧
      env.responses = s.env.responses ∧ env.samples = s.env.samples := by
  cases holds : s.seq.fifo with
  | nil =>
    rw [readAdcFifo_of_nil holds]
    exact ⟨s.seq.fifo, _, _, rfl, .inr rfl, drawWord_env (setRis bitUV s)⟩
  | cons v rest =>
    rw [readAdcFifo_of_cons holds]
    exact ⟨rest, _, s.env, rfl, .inl rfl, rfl, rfl, rfl⟩

theorem getLsbD_or_bitUV (x : BitVec 3) (i : Nat) : (x ||| bitUV).getLsbD i = (x.getLsbD i || decide (i = 2)) := by
  have flag : bitUV.getLsbD i = decide (i = 2) := by
    rw [show bitUV = BitVec.twoPow 3 2 from rfl, BitVec.getLsbD_twoPow]
    simp [eq_comm]
  rw [BitVec.getLsbD_or, flag]

/-- What one transaction of the host leaves alone (R45, R55): TMR, SEQ and SGE registers may change, and ADC_FIFO has a side
effect of its own. -/
def TxnFrame (tw : TxnWord) (s t : State) : Prop :=
  t.mem = s.mem ∧ t.sge.rs = s.sge.rs ∧ t.blockPage = s.blockPage ∧ t.latch = s.latch ∧ t.fault = s.fault ∧
  t.env.script = s.env.script ∧ t.env.responses = s.env.responses ∧ t.env.samples = s.env.samples ∧
  (tw ≠ 0x118#13 → t.env = s.env) ∧
  (∀ i, t.adc.ris.getLsbD i = true → s.adc.ris.getLsbD i = true ∨ (i = 2 ∧ tw = 0x118#13)) ∧
  (t.sge.err = true → s.sge.err = true) ∧
  ∀ c : Chan, hasChan t.sge.done c = true → hasChan s.sge.done c = true

theorem txnFrame_of_write (tw : TxnWord) {r : Reg} {d : Word} {s t : State} (h : regWrite r d s = .ok t) :
    TxnFrame tw s t := by
  obtain ⟨rs, mem, page, latch, env, _, fault⟩ := regWrite_frame h
  obtain ⟨ris, err, done⟩ := regWrite_noFlagRises h
  rw [TxnFrame, env]
  exact ⟨mem, rs, page, latch, fault, rfl, rfl, rfl, fun _ => rfl, fun i risen => .inl (ris i risen), err, done⟩

theorem txnFrame_of_read (r : Reg) (v : Word) (s : State) :
    TxnFrame (readTxn r) s { (regRead r s).2 with rdata := v } := by
  by_cases isFifo : r = .adcFifo
  · subst isFifo
    obtain ⟨fifo, ris, env, after, flags, script, responses, samples⟩ := readAdcFifo_spec s
    rw [regRead, after]
    refine ⟨rfl, rfl, rfl, rfl, rfl, script, responses, samples, fun other => absurd rfl other, fun i risen => ?_, id,
      fun _ => id⟩
    rcases flags with rfl | rfl
    · exact .inl risen
    · rw [getLsbD_or_bitUV, Bool.or_eq_true, decide_eq_true_iff] at risen
      exact risen.imp_right fun uv => ⟨uv, rfl⟩
  · rw [regRead_of_ne_adcFifo isFifo]
    exact ⟨rfl, rfl, rfl, rfl, rfl, rfl, rfl, rfl, fun _ => rfl, fun _ => .inl, id, fun _ => id⟩

theorem hostTxn_frame {width : Nat} {tw : TxnWord} {d : Word} {s t : State} (h : hostTxn width tw d s = .next t) :
    TxnFrame tw s t := by
  obtain ⟨r, write | ⟨rfl, rfl⟩⟩ := hostTxn_eq_next h
  · exact txnFrame_of_write tw write
  · exact txnFrame_of_read r _ s

/-! ### The engine's access of a register (R46, R56) -/

theorem sgeRead_register (s : State) (r : Reg) :
    sgeRead s (s.blockPage ++ regOffset r) .word = (some (regRead r s).1, (regRead r s).2) := by
  have read := sgeRead_windowAddr s (regOffset r)
  rw [regAt_regOffset] at read
  exact read

theorem sgeWrite_register (s : State) (r : Reg) (d : Word) :
    sgeWrite s (s.blockPage ++ regOffset r) .word d = (regWrite r d s).map fun t => (true, t) := by
  have write := sgeWrite_windowAddr s (regOffset r) d
  rw [regAt_regOffset] at write
  exact write

/-- Settles O60: the host's transaction by its register's write or read, and the engine's access by the same two. -/
theorem registerAccessFrame : Obligations.RegisterAccessFrame := by
  refine ⟨fun width tw d s t => hostTxn_frame, fun s r d => ⟨?_, fun t => ?_, fun f => ?_⟩⟩
  · exact ⟨_, _, sgeRead_register s r, exec_readInstr r s⟩
  · rw [sgeWrite_register, exec_writeInstr]
    cases regWrite r d s <;> simp [Except.map, outcomeOf]
  · rw [sgeWrite_register, exec_writeInstr]
    cases regWrite r d s <;> simp [Except.map, outcomeOf]

end Sys2Proof.Laws
end

section
/-! PROOFS (spec/20_memory.md R58; spec/42_sg_engine.md R152, R154, R158, R161). The platform's answers one after another,
the fetch of a control structure, and the end of a run. -/

namespace Sys2Proof.Laws

open Sys2Proof.Machine Sys2Proof.Claims

/-! ### Answers one after another (R58) -/

theorem busAnswers_cons (a : Word) (size : Size) (kind : AccessKind) (rest : List (Word × Size × AccessKind)) (s : State) :
    busAnswers ((a, size, kind) :: rest) s =
      ((drawResponse a size kind s).1 :: (busAnswers rest (drawResponse a size kind s).2).1,
        (busAnswers rest (drawResponse a size kind s).2).2) := rfl

theorem busAnswers_env (accesses : List (Word × Size × AccessKind)) {s t : State} (h : s.env = t.env) :
    (busAnswers accesses s).1 = (busAnswers accesses t).1 ∧
      (busAnswers accesses s).2.env = (busAnswers accesses t).2.env := by
  induction accesses generalizing s t with
  | nil => exact ⟨rfl, h⟩
  | cons x rest ih =>
    obtain ⟨a, size, kind⟩ := x
    obtain ⟨answer, env⟩ := drawResponse_env a size kind h
    obtain ⟨answers, env'⟩ := ih env
    rw [busAnswers_cons, busAnswers_cons, answer, answers]
    exact ⟨rfl, env'⟩

/-- The platform answers `oks` to these accesses made from `s` on, and leaves the environment `e`. -/
def Answers (accesses : List (Word × Size × AccessKind)) (s : State) (oks : List Bool) (e : Env) : Prop :=
  (busAnswers accesses s).1 = oks ∧ (busAnswers accesses s).2.env = e

theorem answers_of_busAnswers {accesses : List (Word × Size × AccessKind)} {s u : State} {oks : List Bool}
    (h : busAnswers accesses s = (oks, u)) : Answers accesses s oks u.env := by
  rw [Answers, h]
  exact ⟨rfl, rfl⟩

/-- What the accesses in between stored does not change the answers. -/
theorem Answers.of_env {accesses : List (Word × Size × AccessKind)} {s t : State} {oks : List Bool} {e : Env}
    (h : Answers accesses s oks e) (same : t.env = s.env) : Answers accesses t oks e := by
  obtain ⟨answers, env⟩ := busAnswers_env accesses same
  exact ⟨answers.trans h.1, env.trans h.2⟩

theorem Answers.cons {a : Word} {size : Size} {kind : AccessKind} {rest : List (Word × Size × AccessKind)} {s : State}
    {ok : Bool} {oks : List Bool} {e : Env} (h : Answers ((a, size, kind) :: rest) s (ok :: oks) e) :
    (drawResponse a size kind s).1 = ok ∧ Answers rest (drawResponse a size kind s).2 oks e := by
  obtain ⟨answers, env⟩ := h
  rw [busAnswers_cons] at answers env
  obtain ⟨first, others⟩ := List.cons.inj answers
  exact ⟨first, others, env⟩

theorem Answers.env_of_nil {s : State} {e : Env} (h : Answers [] s [] e) : s.env = e := h.2

section
variable {s : State} {a : Word} {size : Size} {rest : List (Word × Size × AccessKind)} {ok : Bool} {oks : List Bool}
  {e : Env} (out : Outside s a)
include out

theorem sgeRead_of_answers (h : Answers ((a, size, .read) :: rest) s (ok :: oks) e) :
    ∃ e', sgeRead s a size = (if ok then some (memRead s.mem a size) else none, { s with env := e' }) ∧
      Answers rest { s with env := e' } oks e := by
  obtain ⟨first, others⟩ := h.cons
  exact ⟨_, by rw [sgeRead_outside size out, first], others.of_env rfl⟩

theorem sgeWrite_of_answers (v : Word) (h : Answers ((a, size, .write) :: rest) s (ok :: oks) e) :
    ∃ e', sgeWrite s a size v =
        .ok (ok, { s with env := e', mem := if ok then memWrite s.mem a size v else s.mem }) ∧
      Answers rest { s with env := e' } oks e := by
  obtain ⟨first, others⟩ := h.cons
  exact ⟨_, by rw [sgeWrite_outside size v out, first], others.of_env rfl⟩

/-- The last access of a step leaves the environment that the step ends in. -/
theorem sgeRead_of_lastAnswer (h : Answers [(a, size, .read)] s [ok] e) :
    sgeRead s a size = (if ok then some (memRead s.mem a size) else none, { s with env := e }) := by
  obtain ⟨e', read, ended⟩ := sgeRead_of_answers out h
  obtain rfl : e' = e := ended.env_of_nil
  exact read

theorem sgeWrite_of_lastAnswer (v : Word) (h : Answers [(a, size, .write)] s [ok] e) :
    sgeWrite s a size v = .ok (ok, { s with env := e, mem := if ok then memWrite s.mem a size v else s.mem }) := by
  obtain ⟨e', write, ended⟩ := sgeWrite_of_answers out v h
  obtain rfl : e' = e := ended.env_of_nil
  exact write

end

/-! ### The fetch of a structure (R79, R152, R154) -/

theorem structAddr_eq (s : State) (c : Chan) :
    structAddr s c =
      s.sge.ctlBase + BitVec.ofNat 32 ((if hasChan s.sge.altSel c then 0x200 else 0) + 16 * c.val) := by
  rw [structAddr, altAddr, priAddr]
  cases hasChan s.sge.altSel c with
  | false => rw [if_neg Bool.false_ne_true, if_neg Bool.false_ne_true, Nat.zero_add]
  | true => rw [if_pos rfl, if_pos rfl, BitVec.ofNat_add, ← BitVec.add_assoc]

theorem fetchAccept_of_answer {c : Chan} {s : State} {ok : Bool} {e : Env} (out : Outside s (structAddr s c + 8#32))
    (h : Answers [(structAddr s c + 8#32, .word, .read)] s [ok] e) :
    fetchAccept c s =
      if ok then (some (memRead s.mem (structAddr s c + 8#32) .word),
        { s with env := e, latch := { chan := c, srcEnd := 0#32, dstEnd := 0#32 } })
      else (none, { s with env := e }) := by
  rw [fetchAccept, sgeRead_of_lastAnswer out h]
  cases ok <;> rfl

/-- The three words are read whatever is answered to the first two, and are handed on when all three are answered ok. -/
theorem fetchElem_of_answers {c : Chan} {s : State} {base : Word} {ok0 ok1 ok2 : Bool} {e : Env}
    (slot : structAddr s c = base) (out0 : Outside s base) (out1 : Outside s (base + 4#32))
    (out2 : Outside s (base + 8#32))
    (h : Answers [(base, .word, .read), (base + 4#32, .word, .read), (base + 8#32, .word, .read)] s [ok0, ok1, ok2] e) :
    fetchElem c s =
      if ok0 && ok1 && ok2 then (some (memRead s.mem (base + 8#32) .word),
        { s with env := e, latch := { chan := c, srcEnd := memRead s.mem base .word,
                                      dstEnd := memRead s.mem (base + 4#32) .word } })
      else (none, { s with env := e }) := by
  obtain ⟨e0, read0, answers0⟩ := sgeRead_of_answers out0 h
  obtain ⟨e1, read1, answers1⟩ := sgeRead_of_answers (s := { s with env := e0 }) out1 answers0
  have read2 := sgeRead_of_lastAnswer (s := { s with env := e1 }) out2 answers1
  simp only [fetchElem, slot, read0, read1, read2]
  cases ok0 <;> cases ok1 <;> cases ok2 <;> rfl

/-- Settles O6: an enabled step is its fetch and the run of the fetched word, and the fetch reads the selected slot. -/
theorem stepRunsFetchedControlWord : Obligations.StepRunsFetchedControlWord := by
  refine ⟨fun s t u c ctl i rest noFault decoded => ⟨fun next enabled fetch => ?_, fun next enabled fetch => ?_⟩, ?_⟩
  · rw [step_of_nextOp noFault next, perform, if_pos enabled, acceptStep, fetch]
    simp only [runBytes, decoded]
  · rw [step_of_nextOp noFault next, perform, if_pos enabled, elemStep, fetch]
    simp only [runBytes, decoded]
  · intro s u c base out2
    have slot : structAddr s c = base := structAddr_eq s c
    refine ⟨fun answer => ?_, fun out0 out1 answers => ?_⟩
    · rw [← slot] at out2 answer ⊢
      rw [fetchAccept_of_answer out2 (answers_of_busAnswers answer), if_pos rfl]
    · have fetch := fetchElem_of_answers slot out0 out1 out2 (answers_of_busAnswers answers)
      rwa [Bool.and_true, Bool.and_true, if_pos rfl] at fetch

/-! ### Ends of a run (R158, R161) -/

theorem structAbort_eq (c : Chan) (s : State) : structAbort c s = { s with sge := aborted c s.sge } := rfl

theorem ctlMode_eq_stop_iff (w : Word) : ctlMode w = .stop ↔ w.extractLsb' 0 3 = 0#3 := by
  rw [ctlMode]
  generalize w.extractLsb' 0 3 = code
  decide +revert

/-- Settles O53: the primary's word is read after the channel is idle again, and the answer and the mode decide the rest. -/
theorem completionTestsThePrimary : Obligations.CompletionTestsThePrimary := by
  intro c s u ok at8 out answer
  have read := sgeRead_of_lastAnswer (s := selectPrimary c (setRun c .idle s)) (a := at8) out
    ((answers_of_busAnswers answer).of_env rfl)
  have slot : priAddr (selectPrimary c (setRun c .idle s)) c + 8#32 = at8 := rfl
  cases ok with
  | false =>
    simp only [complete, slot, read, structAbort_eq, aborted]
    simp [selectPrimary, setRun]
  | true =>
    simp only [complete, slot, read, if_pos, ctlMode_eq_stop_iff]
    by_cases stop : (memRead s.mem at8 .word).extractLsb' 0 3 = 0#3
    · simp [stop, setDone, disableChan, selectPrimary, setRun]
    · simp [stop, setDone, selectPrimary, setRun]

end Sys2Proof.Laws
end

section
/-! PROOFS (spec/42_sg_engine.md R152, R155, R157 to R160, R166, R167). An accept of a legal word, and an element step: the
move, the write-back, and what follows them. -/

namespace Sys2Proof.Laws

open Sys2Proof.Machine Sys2Proof.Claims

/-! ### Legal words -/

/-- Only MEM_SG asks more of the fields than the other modes do (R77). -/
theorem fieldsFit_of_mode {m m' : XferMode} {f : CtlFields} (h : FieldsFit m f) (other : m' ≠ .memSg) :
    FieldsFit m' f := by
  obtain ⟨srcSize, dstSize, same, srcInc, dstInc, rsvHi, rsvLo, arbSize, _⟩ := h
  exact ⟨srcSize, dstSize, same, srcInc, dstInc, rsvHi, rsvLo, arbSize, fun memSg => absurd memSg other⟩

theorem fieldsFit_memSg_codes {f : CtlFields} (h : FieldsFit .memSg f) :
    f.srcSize = 2#2 ∧ f.srcInc = 2#2 ∧ f.dstInc = 2#2 := by
  obtain ⟨_, _, _, _, _, _, _, _, codes⟩ := h
  exact codes rfl

/-! ### SG.ACCEPT (R152) -/

/-- A word that passes its check starts the run, as a chain run for a MEM_SG primary. -/
theorem exec_ctlInstr_accept {m : XferMode} {f : CtlFields} {s : State} {chain : Bool} (moves : m ≠ .stop)
    (idle : s.sge.rs[s.latch.chan] = .idle)
    (chain_eq : (!hasChan s.sge.altSel s.latch.chan && m == .memSg) = chain)
    (mode : ModeFits m (hasChan s.sge.altSel s.latch.chan) chain) (fields : FieldsFit m f)
    (count : countLegal m f = true) :
    exec (ctlInstr m f) s = .next (startRun s.latch.chan m f chain (clearRequest s.latch.chan s)) := by
  have legal := checkCtl_of_legal (atAccept := true) mode fields (by simp [count])
  rw [exec_ctlInstr_idle idle]
  simp only [sgAccept, if_neg moves, chain_eq, legal, outcomeOf]

/-- Settles O45: a legal word's run is `startRun`'s, and ALT_SG is out of place at an accept. -/
theorem acceptStartsTheRun : Obligations.AcceptStartsTheRun := by
  refine fun f s idle => ⟨fun fields => ?_, fun fields => ?_, fun fields primary whole => ?_, ?_⟩
  · exact exec_ctlInstr_accept (m := .basic) (by decide) idle (Bool.and_false _) (by simp [ModeFits]) fields rfl
  · exact exec_ctlInstr_accept (m := .auto) (by decide) idle (Bool.and_false _) (by simp [ModeFits]) fields rfl
  · exact exec_ctlInstr_accept (m := .memSg) (chain := true) (by decide) idle (by rw [primary]; rfl)
      (by simp [ModeFits, primary]) fields (by simp [countLegal, remaining, whole])
  · exact exec_ctlInstr_idle_of_check (m := .altSg) (by decide) idle (checkCtl_of_badMode (by simp [ModeFits]))

/-! ### The element's move (R155, R157) -/

section
variable {s t : State} {src dst : Word} {size : Size} {v : Word} {ok : Bool} {rest : List (Word × Size × AccessKind)}
  {oks : List Bool} {e : Env}

/-- After its read an element is stored, or lost with SG_ERR when its write is refused. -/
theorem moveElement_of_read (read : sgeRead s src size = (some v, t)) (out : Outside t dst)
    (h : Answers ((dst, size, .write) :: rest) t (ok :: oks) e) :
    ∃ e', moveElement src dst size s =
        .ok (if ok then { t with env := e', mem := memWrite t.mem dst size v } else setErr { t with env := e' }) ∧
      Answers rest { t with env := e' } oks e := by
  obtain ⟨e', write, answers⟩ := sgeWrite_of_answers out v h
  refine ⟨e', ?_, answers⟩
  simp only [moveElement, read, write]
  cases ok <;> rfl

/-- An element whose read is refused is lost with SG_ERR, and its write is not tried. -/
theorem moveElement_of_lostRead (out : Outside s src) (h : Answers ((src, size, .read) :: rest) s (false :: oks) e) :
    ∃ e', moveElement src dst size s = .ok (setErr { s with env := e' }) ∧ Answers rest { s with env := e' } oks e := by
  obtain ⟨e', read, answers⟩ := sgeRead_of_answers out h
  refine ⟨e', ?_, answers⟩
  simp only [moveElement, read]
  rfl

/-- Outside the window both accesses take their answers from the platform. -/
theorem moveElement_of_answers (outSrc : Outside s src) (outDst : Outside s dst)
    (h : Answers ((src, size, .read) :: (dst, size, .write) :: rest) s (true :: ok :: oks) e) :
    ∃ e', moveElement src dst size s =
        .ok (if ok then { s with env := e', mem := memWrite s.mem dst size (memRead s.mem src size) }
             else setErr { s with env := e' }) ∧
      Answers rest { s with env := e' } oks e := by
  obtain ⟨e', read, answers⟩ := sgeRead_of_answers outSrc h
  exact moveElement_of_read (t := { s with env := e' }) read outDst answers

/-- The two ways an element outside the window is lost: its read or its write is refused. -/
theorem moveElement_of_lost (outSrc : Outside s src) (outDst : Outside s dst)
    (h : Answers ((src, size, .read) :: rest) s (false :: oks) e ∨
      Answers ((src, size, .read) :: (dst, size, .write) :: rest) s (true :: false :: oks) e) :
    ∃ e', moveElement src dst size s = .ok (setErr { s with env := e' }) ∧ Answers rest { s with env := e' } oks e := by
  rcases h with lostRead | lostWrite
  · exact moveElement_of_lostRead outSrc lostRead
  · obtain ⟨e', moved, answers⟩ := moveElement_of_answers outSrc outDst lostWrite
    rw [if_neg Bool.false_ne_true] at moved
    exact ⟨e', moved, answers⟩

/-- The copy task's word is the oldest result, which its read removes (R114). -/
theorem moveElement_of_fifo {w : Sample} {others : List Sample} (fifo : s.seq.fifo = w :: others)
    (outDst : Outside s dst) (h : Answers ((dst, .word, .write) :: rest) s (ok :: oks) e) :
    ∃ e', moveElement (s.blockPage ++ 0x118#12) dst .word s =
        .ok (if ok then { s with env := e', mem := memWrite s.mem dst .word (w.setWidth 32),
                                 seq := { s.seq with fifo := others } }
             else setErr { s with env := e', seq := { s.seq with fifo := others } }) ∧
      Answers rest { s with env := e' } oks e := by
  have read : sgeRead s (s.blockPage ++ 0x118#12) .word =
      (some (w.setWidth 32), { s with seq := { s.seq with fifo := others } }) := by
    rw [sgeRead_adcFifo, readAdcFifo_of_cons fifo]
  obtain ⟨e', moved, answers⟩ := moveElement_of_read read outDst (h.of_env rfl)
  exact ⟨e', moved, answers.of_env rfl⟩

end

/-! ### The write-back and what follows (R159, R160) -/

theorem writeBack_eq (m : XferMode) (f : CtlFields) : writeBack m f = countedDown m f := by
  by_cases last : f.xferSize = 0#10
  · rw [writeBack_of_last m last, countedDown, if_pos last, ← last]
  · rw [writeBack_of_more m last, countedDown, if_neg last, countedFields]

/-- A run state that an element leaves as it was. -/
theorem set_rs_self {s : State} {c : Chan} {r : RunState} (h : s.sge.rs[c] = r) :
    { s with sge := { s.sge with rs := s.sge.rs.set c.val r c.isLt } } = s := by
  have same : s.sge.rs.set c.val r c.isLt = s.sge.rs := by
    rw [← h]
    exact Vector.set_getElem_self ..
  rw [same]

/-- R160's cases, told by the mode and the count alone where the mode is in place. -/
theorem advance_eq_afterMove {m : XferMode} {f : CtlFields} {b : Budget} {chain isAlt : Bool} {c : Chan} {s : State}
    (mode : ModeFits m isAlt chain) (served : s.sge.rs[c] = .active b chain) :
    advance c isAlt m f b chain s = afterMove m f b chain c s := by
  obtain ⟨_, _, _, memSgPrimary, altSgTask⟩ := mode
  by_cases memSg : m = .memSg
  · unfold advance
    rw [if_pos ⟨memSgPrimary memSg, memSg⟩, remaining_sub_one, afterMove, if_pos memSg]
    split <;> rfl
  · have more : remaining f > 1 ↔ 1 ≤ f.xferSize.toNat := by
      rw [remaining]
      omega
    unfold advance
    rw [if_neg fun task => memSg task.2, afterMove, if_neg memSg]
    simp only [more]
    split
    · cases b with
      | inf => exact (set_rs_self served).symm
      | elems n =>
        by_cases one : n = 1
        · simp only [afterElement, if_pos one]
          rfl
        · simp only [afterElement, if_neg one]
          rfl
    · by_cases altSg : m = .altSg
      · obtain ⟨alternate, inChain⟩ := altSgTask altSg
        rw [if_pos ⟨inChain, alternate, altSg⟩, if_pos altSg]
        rfl
      · rw [if_neg fun task => altSg task.2.2, if_neg altSg]

/-- A served channel's word that passes its check, with aligned element addresses: what SG.ELEM moves an element for. -/
structure LegalElement (m : XferMode) (f : CtlFields) (b : Budget) (chain : Bool) (s : State) : Prop where
  moves : m ≠ .stop
  mode : ModeFits m (hasChan s.sge.altSel s.latch.chan) chain
  served : s.sge.rs[s.latch.chan] = .active b chain
  fields : FieldsFit m f
  srcAligned : (srcAddr f s.latch.srcEnd).toNat % sizeBytes (sizeOfCode f.srcSize) = 0
  dstAligned : (dstAddr m f s.latch.dstEnd (hasChan s.sge.altSel s.latch.chan)).toNat %
    sizeBytes (sizeOfCode f.srcSize) = 0

section
variable {m : XferMode} {f : CtlFields} {b : Budget} {chain : Bool} {s t : State} {ok : Bool} {e : Env}
  (legal : LegalElement m f b chain s)
  (moved : moveElement (srcAddr f s.latch.srcEnd)
    (dstAddr m f s.latch.dstEnd (hasChan s.sge.altSel s.latch.chan)) (sizeOfCode f.srcSize) s = .ok t)
  (out : Outside t (structAddr s s.latch.chan + 8#32))
include legal moved out

/-- After its move, lost or not, an element's control word is written back, and the answer decides what follows. -/
theorem sgElement_of_moved
    (h : Answers [(structAddr s s.latch.chan + 8#32, .word, .write)] t [ok] e) :
    sgElement m f b chain s = .ok (if ok then
        advance s.latch.chan (hasChan s.sge.altSel s.latch.chan) m f b chain
          { t with env := e, mem := memWrite t.mem (structAddr s s.latch.chan + 8#32) .word (countedDown m f) }
      else structAbort s.latch.chan { t with env := e }) := by
  have check := checkCtl_of_legal (atAccept := false) legal.mode legal.fields (by simp)
  have aligned : ¬ ((!isAligned (srcAddr f s.latch.srcEnd) (sizeOfCode f.srcSize) ||
      !isAligned (dstAddr m f s.latch.dstEnd (hasChan s.sge.altSel s.latch.chan)) (sizeOfCode f.srcSize)) = true) := by
    simp [isAligned, legal.srcAligned, legal.dstAligned]
  have write := sgeWrite_of_lastAnswer out (countedDown m f) h
  simp only [sgElement, if_neg legal.moves, check, if_neg aligned, moved, writeBack_eq, write]
  cases ok <;> rfl

theorem exec_ctlInstr_of_moved (h : Answers [(structAddr s s.latch.chan + 8#32, .word, .write)] t [true] e)
    (rs : t.sge.rs = s.sge.rs) :
    exec (ctlInstr m f) s = .next (afterMove m f b chain s.latch.chan
      { t with env := e, mem := memWrite t.mem (structAddr s s.latch.chan + 8#32) .word (countedDown m f) }) := by
  rw [exec_ctlInstr_active legal.served, sgElement_of_moved legal moved out h, if_pos rfl, outcomeOf,
    advance_eq_afterMove legal.mode (by simp only [rs, legal.served])]

theorem exec_ctlInstr_of_failedWriteBack
    (h : Answers [(structAddr s s.latch.chan + 8#32, .word, .write)] t [false] e) :
    exec (ctlInstr m f) s = .next { t with env := e, sge := aborted s.latch.chan t.sge } := by
  rw [exec_ctlInstr_active legal.served, sgElement_of_moved legal moved out h, if_neg Bool.false_ne_true, outcomeOf,
    structAbort_eq]

end

section
variable {m : XferMode} {f : CtlFields} {b : Budget} {chain : Bool} {s : State} {src dst ctlAt : Word} {size : Size}
  {e : Env}

/-- An element with every access outside the window and answered ok is copied and counted (R155). -/
theorem exec_ctlInstr_of_copy (legal : LegalElement m f b chain s) (size_eq : sizeOfCode f.srcSize = size)
    (src_eq : srcAddr f s.latch.srcEnd = src)
    (dst_eq : dstAddr m f s.latch.dstEnd (hasChan s.sge.altSel s.latch.chan) = dst)
    (ctl_eq : structAddr s s.latch.chan + 8#32 = ctlAt)
    (outSrc : Outside s src) (outDst : Outside s dst) (outCtl : Outside s ctlAt)
    (h : Answers [(src, size, .read), (dst, size, .write), (ctlAt, .word, .write)] s [true, true, true] e) :
    exec (ctlInstr m f) s = .next (afterMove m f b chain s.latch.chan { s with
      env := e
      mem := memWrite (memWrite s.mem dst size (memRead s.mem src size)) ctlAt .word (countedDown m f) }) := by
  subst size_eq src_eq dst_eq ctl_eq
  obtain ⟨_, moved, rest⟩ := moveElement_of_answers outSrc outDst h
  rw [if_pos rfl] at moved
  exact (exec_ctlInstr_of_moved legal moved outCtl (rest.of_env rfl) rfl :)

/-- A copy task's element from ADC_FIFO leaves the FIFO whether its write stores it or loses it (R155, R157). -/
theorem exec_ctlInstr_of_fifo {v : Sample} {others : List Sample} {ok : Bool} (legal : LegalElement m f b chain s)
    (size_eq : sizeOfCode f.srcSize = .word) (src_eq : srcAddr f s.latch.srcEnd = s.blockPage ++ 0x118#12)
    (dst_eq : dstAddr m f s.latch.dstEnd (hasChan s.sge.altSel s.latch.chan) = dst)
    (ctl_eq : structAddr s s.latch.chan + 8#32 = ctlAt) (holds : s.seq.fifo = v :: others)
    (outDst : Outside s dst) (outCtl : Outside s ctlAt)
    (h : Answers [(dst, .word, .write), (ctlAt, .word, .write)] s [ok, true] e) :
    exec (ctlInstr m f) s = .next (afterMove m f b chain s.latch.chan { s with
      env := e
      mem := memWrite (if ok then memWrite s.mem dst .word (v.setWidth 32) else s.mem) ctlAt .word (countedDown m f)
      seq := { s.seq with fifo := others }
      sge := if ok then s.sge else { s.sge with err := true } }) := by
  subst dst_eq ctl_eq
  obtain ⟨_, moved, rest⟩ := moveElement_of_fifo holds outDst h
  rw [← src_eq] at moved
  have moved' := (congrArg (moveElement _ _ · s) size_eq).trans moved
  cases ok
  · rw [if_neg Bool.false_ne_true] at moved'
    exact (exec_ctlInstr_of_moved legal moved' outCtl (rest.of_env rfl) rfl :)
  · rw [if_pos rfl] at moved'
    exact (exec_ctlInstr_of_moved legal moved' outCtl (rest.of_env rfl) rfl :)

end

/-! ### What follows an element, by its count and mode (R160) -/

theorem afterMove_of_more {m : XferMode} {f : CtlFields} (noTask : m ≠ .memSg) (more : 1 ≤ f.xferSize.toNat) (b : Budget)
    (chain : Bool) (c : Chan) (t : State) :
    afterMove m f b chain c t =
      { t with sge := { t.sge with rs := t.sge.rs.set c.val (afterElement b chain) c.isLt } } := by
  rw [afterMove, if_neg noTask, if_pos more]

section
variable {f : CtlFields} (last : f.xferSize = 0#10) (b : Budget) (chain : Bool) (c : Chan) (t : State)
include last

theorem afterMove_altSg_of_last :
    afterMove .altSg f b chain c t = { t with sge := { t.sge with altSel := clearChan t.sge.altSel c } } := by
  simp [afterMove, last]

theorem afterMove_of_last {m : XferMode} (noTask : m ≠ .memSg) (noReturn : m ≠ .altSg) :
    afterMove m f b chain c t = complete c t := by
  simp [afterMove, last, noTask, noReturn]

end

theorem countedDown_of_more (m : XferMode) {f : CtlFields} (more : f.xferSize ≠ 0#10) :
    countedDown m f = ctlWord m { f with xferSize := f.xferSize - 1#10 } := if_neg more

theorem countedDown_of_last (m : XferMode) {f : CtlFields} (last : f.xferSize = 0#10) :
    countedDown m f = ctlWord .stop { f with xferSize := 0#10 } := if_pos last

/-- Settles O47: the move, the write-back and R160's case of a structure with more elements. -/
theorem elementIsCopiedAndCounted : Obligations.ElementIsCopiedAndCounted := by
  intro m f b chain s u c isAlt size src dst ctlAt copies inChain served fields more srcAligned dstAligned outSrc outDst
    outCtl answers
  have noTask : m ≠ .memSg := by rcases copies with rfl | rfl | rfl <;> decide
  have notLast : f.xferSize ≠ 0#10 := fun last => by simp [last] at more
  have legal : LegalElement m f b chain s :=
    { moves := by rcases copies with rfl | rfl | rfl <;> decide
      mode := by
        rcases copies with rfl | rfl | rfl
        · simp [ModeFits]
        · simp [ModeFits]
        · simpa [ModeFits] using inChain
      served, fields, srcAligned, dstAligned }
  rw [exec_ctlInstr_of_copy legal rfl rfl rfl rfl outSrc outDst outCtl (answers_of_busAnswers answers),
    afterMove_of_more noTask more, countedDown_of_more m notLast]

/-- Settles O48: a legal MEM_SG word moves words by increments of 4, and its destination counts from the task's end. -/
theorem taskWordIsFetched : Obligations.TaskWordIsFetched := by
  intro f b chain s u c left src dst ctlAt primary served fields srcAligned dstAligned outSrc outDst outCtl answers
  obtain ⟨srcSize, srcInc, dstInc⟩ := fieldsFit_memSg_codes fields
  have size_eq : sizeOfCode f.srcSize = .word := by rw [srcSize]; rfl
  have src_eq : srcAddr f s.latch.srcEnd = src := by rw [srcAddr, srcInc]; rfl
  have dst_eq : dstAddr .memSg f s.latch.dstEnd (hasChan s.sge.altSel s.latch.chan) = dst := by
    rw [primary, dstAddr, dstInc]; rfl
  have ctl_eq : structAddr s s.latch.chan + 8#32 = ctlAt := by
    rw [structAddr, primary]; rfl
  have legal : LegalElement .memSg f b chain s :=
    { moves := by decide
      mode := by simpa [ModeFits] using primary
      served, fields
      srcAligned := by rw [size_eq, src_eq]; exact srcAligned
      dstAligned := by rw [size_eq, dst_eq]; exact dstAligned }
  have ran := exec_ctlInstr_of_copy legal size_eq src_eq dst_eq ctl_eq outSrc outDst outCtl (answers_of_busAnswers answers)
  have last_iff : left = 0 ↔ f.xferSize = 0#10 := by rw [← BitVec.toNat_inj]; rfl
  simp only [last_iff]
  exact ran

section
variable {m : XferMode} {f : CtlFields} {b : Budget} {chain : Bool} {s : State}

/-- The last element lies at the structure's two end addresses (R75). -/
theorem legalElement_of_last (moves : m ≠ .stop) (mode : ModeFits m (hasChan s.sge.altSel s.latch.chan) chain)
    (served : s.sge.rs[s.latch.chan] = .active b chain) (fields : FieldsFit m f) (last : f.xferSize = 0#10)
    (srcAligned : s.latch.srcEnd.toNat % sizeBytes (sizeOfCode f.srcSize) = 0)
    (dstAligned : s.latch.dstEnd.toNat % sizeBytes (sizeOfCode f.srcSize) = 0) : LegalElement m f b chain s where
  moves := moves
  mode := mode
  served := served
  fields := fields
  srcAligned := by rwa [srcAddr_of_last last]
  dstAligned := by rwa [dstAddr_of_last m last]

end

/-- Settles O49: the last element's move and write-back in each mode, and the same for a word from ADC_FIFO. -/
theorem lastElementReturnsOrCompletes : Obligations.LastElementReturnsOrCompletes := by
  intro f b chain s u c size src dst ctlAt ended copied served fields last srcAligned dstAligned outDst outCtl
  have legal (m : XferMode) (moves : m ≠ .stop) (noTask : m ≠ .memSg)
      (mode : ModeFits m (hasChan s.sge.altSel c) chain) : LegalElement m f b chain s :=
    legalElement_of_last moves mode served (fieldsFit_of_mode fields noTask) last srcAligned dstAligned
  refine ⟨fun outSrc answers => ?_, fun v others inChain alternate word fromFifo holds answers => ?_⟩
  · have ran (m : XferMode) (moves : m ≠ .stop) (noTask : m ≠ .memSg)
        (mode : ModeFits m (hasChan s.sge.altSel c) chain) :
        exec (ctlInstr m f) s = .next (afterMove m f b chain c copied) := by
      rw [exec_ctlInstr_of_copy (legal m moves noTask mode) rfl (srcAddr_of_last last src)
        (dstAddr_of_last m last dst _) rfl outSrc outDst outCtl (answers_of_busAnswers answers),
        countedDown_of_last m last]
    refine ⟨fun inChain alternate => ?_, ?_, ?_⟩
    · exact (ran .altSg (by decide) (by decide) (by simp [ModeFits, inChain, alternate])).trans
        (congrArg _ (afterMove_altSg_of_last last b chain c copied))
    · exact (ran .basic (by decide) (by decide) (by simp [ModeFits])).trans
        (congrArg _ (afterMove_of_last last b chain c copied (by decide) (by decide)))
    · exact (ran .auto (by decide) (by decide) (by simp [ModeFits])).trans
        (congrArg _ (afterMove_of_last last b chain c copied (by decide) (by decide)))
  · have fits : ModeFits .altSg (hasChan s.sge.altSel c) chain := by simp [ModeFits, inChain, alternate]
    have ran := exec_ctlInstr_of_fifo (legal .altSg (by decide) (by decide) fits) (by rw [word]; rfl)
      ((srcAddr_of_last last src).trans fromFifo) (dstAddr_of_last .altSg last dst _) rfl holds outDst outCtl
      (answers_of_busAnswers answers)
    rw [afterMove_altSg_of_last last, countedDown_of_last .altSg last, if_pos rfl, if_pos rfl] at ran
    exact ran

/-- Settles O50: an element lost to its read or to its write leaves SG_ERR, and the step goes on. -/
theorem elementBusErrorLosesOneElement : Obligations.ElementBusErrorLosesOneElement := by
  intro m f b chain s u c isAlt size src dst ctlAt lost moves mode served fields srcAligned dstAligned outDst outCtl
  have legal : LegalElement m f b chain s := ⟨moves, mode, served, fields, srcAligned, dstAligned⟩
  refine ⟨fun outSrc answers => ?_, fun v others word fromFifo holds answers => ?_⟩
  · obtain ⟨_, moved, rest⟩ :=
      moveElement_of_lost outSrc outDst (answers.imp answers_of_busAnswers answers_of_busAnswers)
    exact (exec_ctlInstr_of_moved legal moved outCtl (rest.of_env rfl) rfl :)
  · rw [word] at answers
    have ran := exec_ctlInstr_of_fifo legal word fromFifo rfl rfl holds outDst outCtl (answers_of_busAnswers answers)
    simp only [if_neg Bool.false_ne_true] at ran
    exact ran

/-! ### Structure bus errors (R158) -/

/-- Settles O52: the fetch of an accept and of an element step that is answered error, and a write-back that is refused after
an element was stored or lost. -/
theorem structureBusErrorDropsTheChannel : Obligations.StructureBusErrorDropsTheChannel := by
  refine ⟨fun c s u enabled out answer => ?_, ?_, ?_⟩
  · have fetch := fetchAccept_of_answer out (answers_of_busAnswers answer)
    rw [if_neg Bool.false_ne_true] at fetch
    simp only [perform, if_pos enabled, acceptStep, fetch, structAbort_eq]
    rfl
  · intro c s u oks enabled base out0 out1 out2 answers failed
    obtain ⟨ok0, ok1, ok2, rfl⟩ : ∃ ok0 ok1 ok2, oks = [ok0, ok1, ok2] := by
      cases answers
      exact ⟨_, _, _, rfl⟩
    have fetch := fetchElem_of_answers rfl out0 out1 out2 (answers_of_busAnswers answers)
    have someFailed : ¬ (ok0 && ok1 && ok2) = true := by
      rw [Bool.and_eq_true, Bool.and_eq_true]
      rintro ⟨⟨rfl, rfl⟩, rfl⟩
      simp at failed
    rw [if_neg someFailed] at fetch
    simp only [perform, if_pos enabled, elemStep, fetch, structAbort_eq]
  · intro m f b chain s u c isAlt size src dst ctlAt moves mode served fields srcAligned dstAligned outSrc outDst outCtl
    have legal : LegalElement m f b chain s := ⟨moves, mode, served, fields, srcAligned, dstAligned⟩
    refine ⟨fun answers => ?_, fun answers => ?_⟩
    · obtain ⟨_, moved, rest⟩ := moveElement_of_answers outSrc outDst (answers_of_busAnswers answers)
      rw [if_pos rfl] at moved
      exact exec_ctlInstr_of_failedWriteBack legal moved outCtl (rest.of_env rfl)
    · obtain ⟨_, moved, rest⟩ :=
        moveElement_of_lost outSrc outDst (answers.imp answers_of_busAnswers answers_of_busAnswers)
      exact (exec_ctlInstr_of_failedWriteBack legal moved outCtl (rest.of_env rfl) :)

end Sys2Proof.Laws
end
